-- ==== Sys2Proof/Word.lean ====
section
/-! DEFINITION. The word types of the block: the command word of R70, the time and duty operands of R8, and the byte of a
split transport (R54). Widths are the spec's; `CDW`, the one width that is a parameter, is in Config. -/

namespace Sys2Proof

/-- A piece of a register as a narrow transport carries it (R54). -/
abbrev Byte := BitVec 8

/-- A command word, the data of a write to `CMD` (R70). -/
abbrev CommandWord := BitVec 16

/-- `TW`: the width of a time operand (R8). -/
abbrev timeWidth : Nat := 64

/-- `TF`: the fraction bits of a time operand (R8). -/
abbrev timeFraction : Nat := 32

/-- `DW`: the width of the duty operand (R8). -/
abbrev dutyWidth : Nat := 16

/-- A time operand: two's complement, 32 fraction bits, in seconds (R8, R79). -/
abbrev TimeWord := BitVec timeWidth

/-- A duty operand: two's complement, in percent (R8, R80). -/
abbrev DutyWord := BitVec dutyWidth

end Sys2Proof
end

