-- ==== Sys2Proof/Config.lean ====
section
/-! DEFINITION. What a build of the block fixes before reset is released, and no step changes (R5 to R9, R43): the clock
frequency, the two prescaler tables, the number of cells and the width of a count. The block, its commands and the machine are
written for every `Params`: a `State` says of which build it is a state (assumption log 5). -/

namespace Sys2Proof

/-- `MAX_PWM`, the counter maximum of the 16-bit profile: a constant, not a parameter (R7). -/
abbrev maxPwm : Nat := 65535

/-- `MAX_CTC`, the counter maximum of the 8-bit profile: a constant, not a parameter (R7). -/
abbrev maxCtc : Nat := 255

/-- The ranges the spec gives the parameters (R5, R6, R9), as a test: `F_CLK` positive, at most six ratios in each table and
each 2 or more, 1 to 256 cells, a count of 1 bit or more. -/
def parametersInRange (fClk : Nat) (ratiosPwm ratiosCtc : List Nat) (nEvents cdw : Nat) : Bool :=
  decide (0 < fClk) && ratiosPwm.all (2 ≤ ·) && decide (ratiosPwm.length ≤ 6) && ratiosCtc.all (2 ≤ ·) &&
    decide (ratiosCtc.length ≤ 6) && decide (0 < nEvents) && decide (nEvents ≤ 256) && decide (0 < cdw)

/-- The implementation parameters (R5, R6, R9): one value for each build. A build outside the spec's ranges cannot be made,
which is the refusal "at construction" of U6, U8 and U9. -/
structure Params where
  /-- `F_CLK` in Hz (R5). -/
  fClk : Nat
  /-- `RATIOS_PWM`, the successive prescaler ratios of the 16-bit profile (R6). -/
  ratiosPwm : List Nat
  /-- `RATIOS_CTC`, the successive prescaler ratios of the 8-bit profile (R6). -/
  ratiosCtc : List Nat
  /-- `N_EVENTS`, the number of countdown cells (R9). -/
  nEvents : Nat
  /-- `CDW`, the width of a count (R9). -/
  cdw : Nat
  /-- The values are in the ranges the spec gives. -/
  valid : parametersInRange fClk ratiosPwm ratiosCtc nEvents cdw = true
deriving DecidableEq, Repr

/-- What `valid` says, range by range (R5, R6, R9). -/
theorem Params.ranges (p : Params) : 0 < p.fClk ∧ (∀ r ∈ p.ratiosPwm, 2 ≤ r) ∧ p.ratiosPwm.length ≤ 6 ∧
    (∀ r ∈ p.ratiosCtc, 2 ≤ r) ∧ p.ratiosCtc.length ≤ 6 ∧ 0 < p.nEvents ∧ p.nEvents ≤ 256 ∧ 0 < p.cdw := by
  simpa [parametersInRange, and_assoc] using p.valid

theorem Params.fClk_pos (p : Params) : 0 < p.fClk := p.ranges.1
theorem Params.ratiosPwm_two_le (p : Params) : ∀ r ∈ p.ratiosPwm, 2 ≤ r := p.ranges.2.1
theorem Params.ratiosPwm_length_le (p : Params) : p.ratiosPwm.length ≤ 6 := p.ranges.2.2.1
theorem Params.ratiosCtc_two_le (p : Params) : ∀ r ∈ p.ratiosCtc, 2 ≤ r := p.ranges.2.2.2.1
theorem Params.ratiosCtc_length_le (p : Params) : p.ratiosCtc.length ≤ 6 := p.ranges.2.2.2.2.1
theorem Params.nEvents_pos (p : Params) : 0 < p.nEvents := p.ranges.2.2.2.2.2.1
theorem Params.nEvents_le (p : Params) : p.nEvents ≤ 256 := p.ranges.2.2.2.2.2.2.1
theorem Params.cdw_pos (p : Params) : 0 < p.cdw := p.ranges.2.2.2.2.2.2.2

/-- `CEIL`, the largest period in cycles a profile accepts: counter maximum times the product of its ratios (R7, R104). -/
def ceiling (counterMax : Nat) (ratios : List Nat) : Nat := counterMax * ratios.prod

/-- `CEIL_PWM` (R7). -/
def Params.ceilPwm (p : Params) : Nat := ceiling maxPwm p.ratiosPwm

/-- `CEIL_CTC` (R7). -/
def Params.ceilCtc (p : Params) : Nat := ceiling maxCtc p.ratiosCtc

/-- The default `RATIOS_PWM` (R6). -/
def Config.ratiosPwmDefault : List Nat := [8, 8, 4, 4]

/-- The default `RATIOS_CTC` (R6). -/
def Config.ratiosCtcDefault : List Nat := [8, 4, 2, 2, 2, 4]

/-- A build with the default tables, `N_EVENTS = 8` and `CDW = 16` (R6, R9) at a given clock frequency. -/
def Config.defaultsAt (fClk : Nat) (h : 0 < fClk) : Params where
  fClk := fClk
  ratiosPwm := Config.ratiosPwmDefault
  ratiosCtc := Config.ratiosCtcDefault
  nEvents := 8
  cdw := 16
  valid := by simp [parametersInRange, h, Config.ratiosPwmDefault, Config.ratiosCtcDefault]

/-- The clock frequency less one. `F_CLK` is OPEN, "a positive integer the model takes as an argument" (R5), so it has no
body here and nothing can be proved of its value (assumption log 5). -/
opaque Config.fClkLessOne : Nat

/-- The build `State.reset` is a state of, and whose decoder reads the opcode table's words: `F_CLK` any positive integer, every
other parameter at its default (assumption log 5). -/
def Config.build : Params := Config.defaultsAt (Config.fClkLessOne + 1) (Nat.succ_pos _)

end Sys2Proof
end

