-- ==== Sys2Proof/Syntax.lean ====
section
/-! DEFINITION. The thirteen commands of the opcode map (R76), one constructor for each row of spec/opcode_table.json. -/

namespace Sys2Proof

/-- The channel selector `CH` of format T (R72): the document's `output_pin`. The encoding 3 is outside the enumerated set
but a legal command word all the same, so it is a selector too; the command then fails (R106, R165). -/
inductive Selector where
  /-- `CH = 0`: no channel is routed. -/
  | neither
  /-- `CH = 1`: channel A. -/
  | a
  /-- `CH = 2`: channel B. -/
  | b
  /-- `CH = 3`: not a member of the set none, A, B. -/
  | outside
deriving DecidableEq, Repr

/-- A command (R76). Cell numbers are the 8-bit field `IDX` (R74); that one is below `N_EVENTS` is a check of WellFormed. -/
inductive Instr where
  /-- PWMS: configure PWM16 from an on-time and a period (R110). -/
  | pwms (ch : Selector) (iea ieb : Bool)
  /-- PWMD: configure PWM16 from a period and a duty percentage (R111). -/
  | pwmd (ch : Selector) (iea ieb : Bool)
  /-- CTCS: configure CTC8 from a period (R113). -/
  | ctcs (ie : Bool)
  /-- EVINIT: set the reload value and disarm (R131). -/
  | evinit (idx : BitVec 8)
  /-- EVSTART: load the countdown and arm (R132). -/
  | evstart (idx : BitVec 8)
  /-- EVNOW: arm with the countdown at 0 (R133). -/
  | evnow (idx : BitVec 8)
  /-- EVRST: reload the countdown, armed state unchanged (R134). -/
  | evrst (idx : BitVec 8)
  /-- EVCAN: disarm (R135). -/
  | evcan (idx : BitVec 8)
  /-- EVTICK: apply one tick to one cell (R136). -/
  | evtick (idx : BitVec 8)
  /-- EVRDY: test for readiness and consume it (R137). -/
  | evrdy (idx : BitVec 8)
  /-- EVZERO: test whether the countdown is 0 (R138). -/
  | evzero (idx : BitVec 8)
  /-- TKEN: enable dispatch (R153). -/
  | tken
  /-- TKDIS: disable dispatch (R154). -/
  | tkdis
deriving DecidableEq, Repr

end Sys2Proof
end

