-- ==== Sys2Proof/WellFormed.lean ====
section
/-! DEFINITION. Which commands a build has a word for: the one check the encoding makes beyond its fields is that a cell
number is below `N_EVENTS` (R74, R77 (e)). -/

namespace Sys2Proof

/-- The cell a command names, if it is one of the eight event commands (R74, R130). -/
def Instr.cell? : Instr → Option (BitVec 8)
  | .pwms _ _ _ => none
  | .pwmd _ _ _ => none
  | .ctcs _ => none
  | .evinit idx => some idx
  | .evstart idx => some idx
  | .evnow idx => some idx
  | .evrst idx => some idx
  | .evcan idx => some idx
  | .evtick idx => some idx
  | .evrdy idx => some idx
  | .evzero idx => some idx
  | .tken => none
  | .tkdis => none

/-- The command is one of a build with `nEvents` cells: its cell number, if it has one, is below `nEvents` (R74). -/
def Instr.wellFormed (nEvents : Nat) (i : Instr) : Bool :=
  match i.cell? with
  | some idx => decide (idx.toNat < nEvents)
  | none => true

end Sys2Proof
end

