-- ==== Sys2Proof/Decode.lean ====
section
/-! DEFINITION. Command words: the decoder, total on every 16-bit word and rejecting by name (R70 to R78), and after it the
encoder written from the same layout. Also the byte order of a split transport (R54). -/

namespace Sys2Proof

/-! ### Registers in pieces (R54) -/

/-- How many pieces a transport needs for an `n`-bit register (R54). -/
def pieceCount (n : Nat) : Nat := (n + 7) / 8

/-- A register's content as pieces, least significant byte first (R54). Where the width is no multiple of 8 the spare high bits
of the last piece are 0: the spec is silent on them (DESIGN CHOICE, assumption log 11). -/
def piecesOf {n : Nat} (v : BitVec n) : List Byte :=
  (List.range (pieceCount n)).map fun k => BitVec.ofNat 8 (v.toNat / 2 ^ (8 * k))

/-- The number a list of pieces denotes, least significant byte first (R54). -/
def natOfPieces : List Byte → Nat
  | [] => 0
  | b :: bs => b.toNat + 256 * natOfPieces bs

/-- The register content the pieces carry (R54). Spare high bits of the last piece are dropped: the spec is silent on them
(DESIGN CHOICE, assumption log 11). -/
def valueOfPieces (n : Nat) (bs : List Byte) : BitVec n := BitVec.ofNat n (natOfPieces bs)

/-! ### Fields of a command word (R71) -/

/-- `OP = w[15:12]` (R71). -/
def opField (w : CommandWord) : BitVec 4 := w.extractLsb' 12 4

/-- `Z = w[11:8]` (R71). -/
def zField (w : CommandWord) : BitVec 4 := w.extractLsb' 8 4

/-- `ARG = w[7:0]` (R71). -/
def argField (w : CommandWord) : BitVec 8 := w.extractLsb' 0 8

/-- Why a word is illegal (R77); the outcome of all of them is the same. -/
inductive DecodeError where
  /-- `Z ≠ 0` (R77 (a)). -/
  | zFieldNotZero
  /-- `OP` is 0x0, 0xE or 0xF (R77 (b)). -/
  | opcodeReserved
  /-- A must-be-zero bit of `ARG` is 1 (R77 (c), (d), (f)). -/
  | argFieldNotZero
  /-- `ARG ≥ N_EVENTS` in format E (R77 (e)). -/
  | cellOutOfRange
deriving DecidableEq, Repr

/-- `CH = ARG[1:0]` (R72). -/
def selectorOf (arg : BitVec 8) : Selector :=
  match arg.getLsbD 1, arg.getLsbD 0 with
  | false, false => .neither
  | false, true => .a
  | true, false => .b
  | true, true => .outside

/-- Format T: `ARG[7:4]` must be 0 (R72, R77 (c)). -/
def decodeT (make : Selector → Bool → Bool → Instr) (arg : BitVec 8) : Except DecodeError Instr :=
  if arg.extractLsb' 4 4 = 0 then .ok (make (selectorOf arg) (arg.getLsbD 2) (arg.getLsbD 3))
  else .error .argFieldNotZero

/-- Format C: `ARG[7:1]` must be 0 (R73, R77 (d)). -/
def decodeC (make : Bool → Instr) (arg : BitVec 8) : Except DecodeError Instr :=
  if arg.extractLsb' 1 7 = 0 then .ok (make (arg.getLsbD 0)) else .error .argFieldNotZero

/-- Format E: `IDX = ARG` must be below `N_EVENTS` (R74, R77 (e)). -/
def decodeE (nEvents : Nat) (make : BitVec 8 → Instr) (arg : BitVec 8) : Except DecodeError Instr :=
  if arg.toNat < nEvents then .ok (make arg) else .error .cellOutOfRange

/-- Format K: `ARG` must be 0 (R75, R77 (f)). -/
def decodeK (i : Instr) (arg : BitVec 8) : Except DecodeError Instr :=
  if arg = 0 then .ok i else .error .argFieldNotZero

/-- The decoder: which command a word is, in a build with `nEvents` cells. It depends on the word and `N_EVENTS` alone
(R76, R77, R78). -/
def decode (nEvents : Nat) (w : CommandWord) : Except DecodeError Instr :=
  if zField w = 0 then
    match (opField w).toNat with
    | 0x1 => decodeT .pwms (argField w)
    | 0x2 => decodeT .pwmd (argField w)
    | 0x3 => decodeC .ctcs (argField w)
    | 0x4 => decodeE nEvents .evinit (argField w)
    | 0x5 => decodeE nEvents .evstart (argField w)
    | 0x6 => decodeE nEvents .evnow (argField w)
    | 0x7 => decodeE nEvents .evrst (argField w)
    | 0x8 => decodeE nEvents .evcan (argField w)
    | 0x9 => decodeE nEvents .evtick (argField w)
    | 0xA => decodeE nEvents .evrdy (argField w)
    | 0xB => decodeE nEvents .evzero (argField w)
    | 0xC => decodeK .tken (argField w)
    | 0xD => decodeK .tkdis (argField w)
    | _ => .error .opcodeReserved
  else .error .zFieldNotZero

/-- The decoder on a word that arrives in pieces (R54, R70); `none` unless the whole word has arrived. -/
def decodePieces (nEvents : Nat) (bs : List Byte) : Option (Except DecodeError Instr) :=
  if bs.length = pieceCount 16 then some (decode nEvents (valueOfPieces 16 bs)) else none

/-! ### The encoder -/

/-- `CH` as its two bits (R72). -/
def selectorBits : Selector → BitVec 2
  | .neither => 0
  | .a => 1
  | .b => 2
  | .outside => 3

/-- The opcode of a command (R76). -/
def Instr.opcode : Instr → BitVec 4
  | .pwms _ _ _ => 0x1
  | .pwmd _ _ _ => 0x2
  | .ctcs _ => 0x3
  | .evinit _ => 0x4
  | .evstart _ => 0x5
  | .evnow _ => 0x6
  | .evrst _ => 0x7
  | .evcan _ => 0x8
  | .evtick _ => 0x9
  | .evrdy _ => 0xA
  | .evzero _ => 0xB
  | .tken => 0xC
  | .tkdis => 0xD

/-- `ARG` of format T: `(IEB << 3) + (IEA << 2) + CH` (R72, R110). -/
def argT (ch : Selector) (iea ieb : Bool) : BitVec 8 :=
  BitVec.ofNat 8 (ieb.toNat * 8 + iea.toNat * 4 + (selectorBits ch).toNat)

/-- The argument field of a command (R72 to R75). -/
def Instr.arg : Instr → BitVec 8
  | .pwms ch iea ieb => argT ch iea ieb
  | .pwmd ch iea ieb => argT ch iea ieb
  | .ctcs ie => BitVec.ofNat 8 ie.toNat
  | .evinit idx => idx
  | .evstart idx => idx
  | .evnow idx => idx
  | .evrst idx => idx
  | .evcan idx => idx
  | .evtick idx => idx
  | .evrdy idx => idx
  | .evzero idx => idx
  | .tken => 0
  | .tkdis => 0

/-- The word with opcode `op` and argument `arg`: `(OP << 12) + ARG`, so that `Z` is 0 (R71, R76). -/
def wordOf (op : BitVec 4) (arg : BitVec 8) : CommandWord := BitVec.ofNat 16 (op.toNat * 4096 + arg.toNat)

/-- The word of a command (R71, R76). -/
def encode (i : Instr) : CommandWord := wordOf i.opcode i.arg

/-! ### The opcode table's numbering of bits -/

/-- The word whose bits the opcode table numbers `w`, of a row of `nbits` bits: one 16-bit word, bit 0 its least significant,
every bit from `nbits` up 0. -/
def tableWord (nbits w : Nat) : CommandWord := BitVec.ofNat 16 (w % 2 ^ nbits)

/-- What the decoder of the build reads from the table's word `w`, laid out in pieces as a transport carries it (R54). -/
def decodeTableWord (nbits w : Nat) : Option Instr :=
  match decodePieces Config.build.nEvents (piecesOf (tableWord nbits w)) with
  | some (.ok i) => some i
  | some (.error _) => none
  | none => none

end Sys2Proof
end

