-- ==== Sys2Proof/Machine/State.lean ====
section
/-! DEFINITION. The state: the block (R20 to R44), written for every build, and the machine's State, which says which build it
is of and adds what the agents outside the block hold. Plain data throughout. -/

namespace Sys2Proof.Machine

/-! ### The block -/

/-- A countdown cell of count width `w` (R37). -/
structure Cell (w : Nat) where
  /-- `countdown`: ticks remaining, unsigned. -/
  countdown : BitVec w
  /-- `default_countdown`: the reload value, unsigned. -/
  reload : BitVec w
  /-- `is_planned`: armed. -/
  planned : Bool
deriving DecidableEq, Repr

/-- The complete state of the block (R20). `CMD` holds nothing (R25) and `FLAGS` is a window on the last four fields (R28),
so neither has storage. -/
structure Block (p : Params) where
  /-- `ONT`, register 0 (R21). -/
  ont : TimeWord
  /-- `PER`, register 1 (R22). -/
  per : TimeWord
  /-- `DUTY`, register 2 (R23). -/
  duty : DutyWord
  /-- `CNT`, register 3 (R24). -/
  cnt : BitVec p.cdw
  /-- `STATUS`, register 5 (R26). -/
  status : BitVec 4
  /-- `RESULT`, register 6 (R27). -/
  result : BitVec 1
  /-- `T1PS`, register 8 (R29). -/
  t1ps : BitVec 3
  /-- `T1TOP`, register 9 (R30). -/
  t1top : BitVec 16
  /-- `T1CMPA`, register 10 (R31). -/
  t1cmpa : BitVec 16
  /-- `T1CMPB`, register 11 (R32). -/
  t1cmpb : BitVec 16
  /-- `T1CTL`, register 12 (R33). -/
  t1ctl : BitVec 6
  /-- `T2PS`, register 13 (R34). -/
  t2ps : BitVec 3
  /-- `T2CMP`, register 14 (R35). -/
  t2cmp : BitVec 8
  /-- `T2CTL`, register 15 (R36). -/
  t2ctl : BitVec 1
  /-- `EV[0]` to `EV[N_EVENTS - 1]` (R37). -/
  cells : Vector (Cell p.cdw) p.nEvents
  /-- `TICK_PEND` (R39). -/
  tickPend : Bool
  /-- `TICK_EN` (R40). -/
  tickEn : Bool
  /-- `INIT_PWM` (R41). -/
  initPwm : Bool
  /-- `INIT_CTC` (R41). -/
  initCtc : Bool
deriving DecidableEq, Repr

/-- A cell after reset (R44). -/
def Cell.reset (w : Nat) : Cell w := { countdown := 0, reload := 0, planned := false }

/-- The block after reset: every bit of state is 0 (R44, R190, R191). -/
def Block.reset (p : Params) : Block p where
  ont := 0
  per := 0
  duty := 0
  cnt := 0
  status := 0
  result := 0
  t1ps := 0
  t1top := 0
  t1cmpa := 0
  t1cmpb := 0
  t1ctl := 0
  t2ps := 0
  t2cmp := 0
  t2ctl := 0
  cells := Vector.replicate p.nEvents (Cell.reset p.cdw)
  tickPend := false
  tickEn := false
  initPwm := false
  initCtc := false

/-! ### The host register space -/

/-- The sixteen locations of the one address space (R20, R50). -/
inductive HostReg where
  | ont | per | duty | cnt | cmd | status | result | flags
  | t1ps | t1top | t1cmpa | t1cmpb | t1ctl | t2ps | t2cmp | t2ctl
deriving DecidableEq, Repr

/-- A location's width, which is the width of every access to it (R20, R50, R56). -/
abbrev HostReg.width (p : Params) : HostReg → Nat
  | .ont => 64
  | .per => 64
  | .duty => 16
  | .cnt => p.cdw
  | .cmd => 16
  | .status => 4
  | .result => 1
  | .flags => 6
  | .t1ps => 3
  | .t1top => 16
  | .t1cmpa => 16
  | .t1cmpb => 16
  | .t1ctl => 6
  | .t2ps => 3
  | .t2cmp => 8
  | .t2ctl => 1

/-! ### The agents -/

/-- A host transaction: `MemRead` (R51) or `MemWrite` (R52), of exactly the register's width (R53). -/
inductive Transaction (p : Params) where
  | read (r : HostReg)
  | write (r : HostReg) (v : BitVec (r.width p))
deriving DecidableEq, Repr

/-- Whose turn it is, and with what (R12, R190). -/
inductive Turn (p : Params) where
  /-- The host performs a bus transaction. -/
  | host (t : Transaction p)
  /-- The tick source performs a tick arrival (R150). -/
  | tickSource
  /-- The dispatcher takes its turn: a dispatch if one is enabled (R152, assumption log 2). -/
  | dispatcher
  /-- Reset is asserted and released (R190, assumption log 10). -/
  | reset
deriving DecidableEq, Repr

/-- What a bus read gave the host (R51). -/
structure Reading (p : Params) where
  reg : HostReg
  data : BitVec (reg.width p)
deriving DecidableEq, Repr

end Sys2Proof.Machine

namespace Sys2Proof

open Sys2Proof.Machine

/-- The turns the agents take beyond those scheduled, for each build and each refill of the schedule: any finite list at each
refill. Which agent steps next is OPEN (R155), so this has no body and nothing can be proved of its value (assumption log 1
and 3). -/
opaque Config.freeTurns (p : Params) (n : Nat) : List (Turn p)

end Sys2Proof

namespace Sys2Proof.Machine

/-- The machine: a build, its block, and what the agents outside the block hold (assumption log 1, 3, 4 and 5). -/
structure State where
  /-- The build this is a state of: the arguments of R5, R6 and R9. No step changes it (R43, assumption log 5). -/
  params : Params
  /-- The block itself: all the state the spec gives it (R20). -/
  block : Block params
  /-- The next turns of the agents, first to act first (R12, R155); the model's own field (assumption log 1). -/
  schedule : List (Turn params)
  /-- How often the schedule has been refilled from `Config.freeTurns`; the model's own field (assumption log 3). -/
  refills : Nat
  /-- What the host received at its latest bus read (R51); the model's own field (assumption log 4). -/
  hostData : Option (Reading params)
deriving DecidableEq, Repr

/-- The faults of the machine: none. "Every command on every input has a defined outcome", and no error or tick traps
(spec/00_scope.md section 6 item 5, R160, R173; assumption log 9). -/
inductive Fault
deriving DecidableEq, Repr

/-- The refusals of the machine. -/
inductive Refusal where
  /-- Raised by an arm of `exec` whose command has no meaning yet: no arm is one, so nothing raises it. It would be safe:
  the machine would stop where the block goes on. -/
  | notModelled (mnemonic : String)
deriving DecidableEq, Repr

/-- Right after reset, in a given build: the block as R44 says, no turn scheduled and nothing read (assumption log 1, 3, 4
and 7). -/
abbrev State.resetOf (p : Params) : State :=
  { params := p, block := Block.reset p, schedule := [], refills := 0, hostData := none }

/-- Right after reset, in the build with the defaults of R6 and R9 (assumption log 5). -/
def State.reset : State := State.resetOf Config.build

end Sys2Proof.Machine
end

