-- ==== Sys2Proof/Machine/Flags.lean ====
section
/-! DEFINITION. The status codes (R161), the fields of `T1CTL` (R33) and the window `FLAGS` (R28). -/

namespace Sys2Proof.Machine

/-! ### STATUS -/

/-- The outcomes a command can report (R161). -/
inductive Status where
  | success
  | invalidTime
  | onTimeExceedsPeriod
  | periodTooLarge
  | invalidChannelSelector
  | invalidDutyCycle
  | illegalCommand
deriving DecidableEq, Repr

/-- The code `STATUS` holds for an outcome; 6 to 14 are never written (R161). -/
def Status.code : Status → BitVec 4
  | .success => 0
  | .invalidTime => 1
  | .onTimeExceedsPeriod => 2
  | .periodTooLarge => 3
  | .invalidChannelSelector => 4
  | .invalidDutyCycle => 5
  | .illegalCommand => 15

/-! ### T1CTL -/

/-- `CONA`: channel A drives the physical output (R33). -/
def t1Cona (v : BitVec 6) : Bool := v.getLsbD 0

/-- `CONB`: channel B drives the physical output (R33). -/
def t1Conb (v : BitVec 6) : Bool := v.getLsbD 1

/-- `IEA`: compare-A interrupt enabled (R33). -/
def t1Iea (v : BitVec 6) : Bool := v.getLsbD 2

/-- `IEB`: compare-B interrupt enabled (R33). -/
def t1Ieb (v : BitVec 6) : Bool := v.getLsbD 3

/-- `DDRA`: the pin of channel A is marked timer-controlled (R33). -/
def t1Ddra (v : BitVec 6) : Bool := v.getLsbD 4

/-- `DDRB`: the pin of channel B is marked timer-controlled (R33). -/
def t1Ddrb (v : BitVec 6) : Bool := v.getLsbD 5

/-- `T1CTL` from its six fields (R33). -/
def packT1ctl (cona conb iea ieb ddra ddrb : Bool) : BitVec 6 :=
  BitVec.ofBool ddrb ++ BitVec.ofBool ddra ++ BitVec.ofBool ieb ++ BitVec.ofBool iea ++ BitVec.ofBool conb ++
    BitVec.ofBool cona

/-! ### FLAGS -/

/-- What `FLAGS` shows: bit 0 `TICK_EN`, bit 1 `TICK_PEND`, bits 3:2 zero, bit 4 `INIT_PWM`, bit 5 `INIT_CTC` (R28). -/
def Block.flags {p : Params} (b : Block p) : BitVec 6 :=
  BitVec.ofBool b.initCtc ++ BitVec.ofBool b.initPwm ++ 0#2 ++ BitVec.ofBool b.tickPend ++ BitVec.ofBool b.tickEn

end Sys2Proof.Machine
end

