-- ==== Sys2Proof/Machine/Operands.lean ====
section
/-! DEFINITION. The operand registers as the commands read them (R79 to R81): whole registers, read as integers. There is no
other operand form: argument fields are used as they stand, and the one addressing mode is a register's number (R53). -/

namespace Sys2Proof.Machine

/-- `on_raw = sext_64(ONT)`: the on-time in units of 2^-32 s (R21, R79). -/
def Block.onRaw {p : Params} (b : Block p) : Int := b.ont.toInt

/-- `per_raw = sext_64(PER)`: the period in units of 2^-32 s (R22, R79). -/
def Block.perRaw {p : Params} (b : Block p) : Int := b.per.toInt

/-- `sext_16(DUTY)`: the duty in percent (R23, R80). -/
def Block.dutyPercent {p : Params} (b : Block p) : Int := b.duty.toInt

/-- The count operand as a reload value; its integer is `uint_CDW(CNT)` (R24, R81). -/
def Block.countOperand {p : Params} (b : Block p) : BitVec p.cdw := b.cnt

end Sys2Proof.Machine
end

