-- ==== Sys2Proof/Machine/Ops.lean ====
section
/-! DEFINITION. The operations every command is made of: the two endings `done` and `fail` (R11), access to one cell (R130),
and one tick on every cell (R152). `fail` is the one shared operation that reports an error: this block has no trap to take
and nothing to return from (R160, R173, R174). -/

namespace Sys2Proof.Machine

/-- `done(b)`: success, with the boolean result `b` (R11, R27). -/
def Block.done {p : Params} (b : Block p) (r : Bool) : Block p :=
  { b with status := Status.success.code, result := BitVec.ofBool r }

/-- `fail <Status>`: the code, `RESULT` 0, nothing else written (R11, R160). -/
def Block.fail {p : Params} (b : Block p) (st : Status) : Block p := { b with status := st.code, result := 0 }

/-- The outcome of an illegal command word (R77, R167). -/
def Block.illegalCommand {p : Params} (b : Block p) : Block p := b.fail .illegalCommand

/-- An event command: the cell it names takes the value `f` gives, and `RESULT` the boolean `f` gives (R130). No word decodes
to an event command with a cell number of `N_EVENTS` or more (R77 (e)); such a command has the illegal word's outcome
(assumption log 8). -/
def Block.onCell {p : Params} (b : Block p) (idx : BitVec 8) (f : Cell p.cdw → Cell p.cdw × Bool) : Block p :=
  if h : idx.toNat < p.nEvents then
    Block.done { b with cells := b.cells.set idx.toNat (f b.cells[idx.toNat]).1 } (f b.cells[idx.toNat]).2
  else b.illegalCommand

/-- `tick_cell`: an armed cell above zero loses exactly 1; every other cell is unchanged (R136, R152). -/
def tickCell {w : Nat} (c : Cell w) : Cell w :=
  if c.planned && c.countdown != 0 then { c with countdown := c.countdown - 1 } else c

/-- `tick_cell` on every cell at once (R152). -/
def tickAll {w n : Nat} (cells : Vector (Cell w) n) : Vector (Cell w) n :=
  ⟨⟨cells.toList.map tickCell⟩, by simp⟩

/-- A command's step: the block it leaves, and nothing changed outside the block. -/
def State.answer (s : State) (b : Block s.params) : Host.Outcome State Fault Refusal := .next { s with block := b }

end Sys2Proof.Machine
end

