-- ==== Sys2Proof/Machine/Events.lean ====
section
/-! DEFINITION. The eight event commands (R130 to R138), each one cell function under `Block.onCell`. -/

namespace Sys2Proof.Machine

/-! ### What each operation does to its cell -/

/-- `initialize(default_countdown)`: set the reload value, disarm; the countdown is not written (R131). -/
def initCell {w : Nat} (count : BitVec w) (c : Cell w) : Cell w := { c with reload := count, planned := false }

/-- `start()`: load the countdown, arm (R132). -/
def startCell {w : Nat} (c : Cell w) : Cell w := { c with countdown := c.reload, planned := true }

/-- `start_now()`: arm with the countdown at 0 (R133). -/
def startNowCell {w : Nat} (c : Cell w) : Cell w := { c with countdown := 0, planned := true }

/-- `reset_countdown()`: load the countdown, armed state unchanged (R134). -/
def reloadCell {w : Nat} (c : Cell w) : Cell w := { c with countdown := c.reload }

/-- `cancel()`: disarm (R135). -/
def cancelCell {w : Nat} (c : Cell w) : Cell w := { c with planned := false }

/-- `countdown_is_zero()`: whether the countdown is 0, armed or not (R138). -/
def cellIsZero {w : Nat} (c : Cell w) : Bool := c.countdown == 0

/-- Whether the cell is armed and at zero (R137). -/
def cellIsReady {w : Nat} (c : Cell w) : Bool := c.planned && c.countdown == 0

/-- `is_ready()`: a ready cell is disarmed; any other is unchanged (R137). -/
def consumeCell {w : Nat} (c : Cell w) : Cell w := if cellIsReady c then { c with planned := false } else c

/-! ### The commands on the block -/

/-- EVINIT (R131). -/
def Block.evinit {p : Params} (b : Block p) (idx : BitVec 8) : Block p :=
  b.onCell idx fun c => (initCell b.countOperand c, false)

/-- EVSTART (R132). -/
def Block.evstart {p : Params} (b : Block p) (idx : BitVec 8) : Block p := b.onCell idx fun c => (startCell c, false)

/-- EVNOW (R133). -/
def Block.evnow {p : Params} (b : Block p) (idx : BitVec 8) : Block p := b.onCell idx fun c => (startNowCell c, false)

/-- EVRST (R134). -/
def Block.evrst {p : Params} (b : Block p) (idx : BitVec 8) : Block p := b.onCell idx fun c => (reloadCell c, false)

/-- EVCAN (R135). -/
def Block.evcan {p : Params} (b : Block p) (idx : BitVec 8) : Block p := b.onCell idx fun c => (cancelCell c, false)

/-- EVTICK (R136). -/
def Block.evtick {p : Params} (b : Block p) (idx : BitVec 8) : Block p := b.onCell idx fun c => (tickCell c, false)

/-- EVRDY (R137): the test and the clear in one step (R60). -/
def Block.evrdy {p : Params} (b : Block p) (idx : BitVec 8) : Block p :=
  b.onCell idx fun c => (consumeCell c, cellIsReady c)

/-- EVZERO (R138). -/
def Block.evzero {p : Params} (b : Block p) (idx : BitVec 8) : Block p := b.onCell idx fun c => (c, cellIsZero c)

/-! ### The meanings -/

/-- EVINIT (R131). -/
def execEvinit (idx : BitVec 8) (s : State) : Host.Outcome State Fault Refusal := s.answer (s.block.evinit idx)

/-- EVSTART (R132). -/
def execEvstart (idx : BitVec 8) (s : State) : Host.Outcome State Fault Refusal := s.answer (s.block.evstart idx)

/-- EVNOW (R133). -/
def execEvnow (idx : BitVec 8) (s : State) : Host.Outcome State Fault Refusal := s.answer (s.block.evnow idx)

/-- EVRST (R134). -/
def execEvrst (idx : BitVec 8) (s : State) : Host.Outcome State Fault Refusal := s.answer (s.block.evrst idx)

/-- EVCAN (R135). -/
def execEvcan (idx : BitVec 8) (s : State) : Host.Outcome State Fault Refusal := s.answer (s.block.evcan idx)

/-- EVTICK (R136). -/
def execEvtick (idx : BitVec 8) (s : State) : Host.Outcome State Fault Refusal := s.answer (s.block.evtick idx)

/-- EVRDY (R137). -/
def execEvrdy (idx : BitVec 8) (s : State) : Host.Outcome State Fault Refusal := s.answer (s.block.evrdy idx)

/-- EVZERO (R138). -/
def execEvzero (idx : BitVec 8) (s : State) : Host.Outcome State Fault Refusal := s.answer (s.block.evzero idx)

end Sys2Proof.Machine
end

