-- ==== Sys2Proof/Machine/Tick.lean ====
section
/-! DEFINITION. The tick path: a tick arrival, the dispatch, and the commands TKEN and TKDIS (R150 to R154, R170). -/

namespace Sys2Proof.Machine

/-- A tick arrival: its whole effect is `TICK_PEND <- 1`, whatever `TICK_EN` holds; an arrival while one is pending is lost
(R150, R151). -/
def Block.tickArrival {p : Params} (b : Block p) : Block p := { b with tickPend := true }

/-- The dispatch action is enabled exactly when `TICK_PEND = 1` and `TICK_EN = 1` (R152). -/
def Block.dispatchEnabled {p : Params} (b : Block p) : Bool := b.tickPend && b.tickEn

/-- The dispatch: clear `TICK_PEND` and tick every cell, in one step; no register is written (R152). -/
def Block.dispatch {p : Params} (b : Block p) : Block p := { b with tickPend := false, cells := tickAll b.cells }

/-- The dispatcher's turn: a dispatch if one is enabled, else no step of the block (R152, assumption log 2). -/
def Block.dispatcherTurn {p : Params} (b : Block p) : Block p := if b.dispatchEnabled then b.dispatch else b

/-- TKEN: `TICK_PEND` is not changed, and the dispatch is a later step (R153). -/
def Block.tken {p : Params} (b : Block p) : Block p := Block.done { b with tickEn := true } false

/-- TKDIS: `TICK_PEND` is not changed (R154). -/
def Block.tkdis {p : Params} (b : Block p) : Block p := Block.done { b with tickEn := false } false

/-- TKEN (R153). -/
def execTken (s : State) : Host.Outcome State Fault Refusal := s.answer s.block.tken

/-- TKDIS (R154). -/
def execTkdis (s : State) : Host.Outcome State Fault Refusal := s.answer s.block.tkdis

end Sys2Proof.Machine
end

