-- ==== Sys2Proof/Machine/Timer.lean ====
section
/-! DEFINITION. The timer configuration commands PWMS, PWMD and CTCS, leaves first: the time-to-cycles converter, the
prescaler search, the two profiles (R100 to R116). All arithmetic is on unbounded integers (D41). -/

namespace Sys2Proof.Machine

/-! ### The converter and the search -/

/-- `cycles(t_raw) = (t_raw × F_CLK) div 2^32`, for a non-negative time (R100). -/
def cycles (fClk tRaw : Nat) : Nat := fClk * tRaw / 2 ^ timeFraction

/-- What the prescaler search returns (R102). -/
structure Scaled where
  /-- The prescaler index, from 1. -/
  idx : Nat
  /-- `scaled_period`. -/
  period : Nat
  /-- `scaled_on`. -/
  onTime : Nat
deriving DecidableEq, Repr

/-- The search loop from index `idx`, with the ratios not used yet (R102). -/
def searchFrom (counterMax : Nat) : List Nat → Nat → Nat → Nat → Option Scaled
  | [], idx, sp, so => if sp ≤ counterMax then some ⟨idx, sp, so⟩ else none
  | r :: rs, idx, sp, so =>
    if sp ≤ counterMax then some ⟨idx, sp, so⟩ else searchFrom counterMax rs (idx + 1) (sp / r) (so / r)

/-- `select_prescaler(P, O, M, R)`; `none` is its failure (R102). -/
def selectPrescaler (P O M : Nat) (R : List Nat) : Option Scaled := searchFrom M R 1 P O

/-! ### The PWM16 profile -/

/-- The values `pwm_core` commits (R107). -/
structure PwmPlan where
  idx : Nat
  top : Nat
  cmp : Nat
deriving DecidableEq, Repr

/-- `pwm_core`: its tests in order, then the computed values (R104, R106, R107). The search cannot fail once the ceiling test
has passed; its failure branch reports the code R104 gives it (assumption log 6). -/
def pwmPlan (p : Params) (onRaw perRaw : Int) (ch : Selector) : Except Status PwmPlan :=
  if onRaw < 0 ∨ perRaw < 0 then .error .invalidTime
  else if onRaw > perRaw then .error .onTimeExceedsPeriod
  else if cycles p.fClk perRaw.toNat > p.ceilPwm then .error .periodTooLarge
  else
    match selectPrescaler (cycles p.fClk perRaw.toNat) (cycles p.fClk onRaw.toNat) maxPwm p.ratiosPwm with
    | none => .error .periodTooLarge
    | some x =>
      if ch = .outside then .error .invalidChannelSelector
      else .ok { idx := x.idx, top := x.period >>> 1, cmp := x.onTime >>> 1 }

/-- The PWM16 commit (R108, R109, R114): the numeric registers, the routing and enable flags, the pin marks and the
initialised flag. Only the selected channel's compare register is written; pin marks are only ever set. -/
def Block.commitPwm {p : Params} (b : Block p) (plan : PwmPlan) (ch : Selector) (iea ieb : Bool) : Block p :=
  { b with
    t1ps := BitVec.ofNat 3 plan.idx
    t1top := BitVec.ofNat 16 plan.top
    t1cmpa := if ch = .a then BitVec.ofNat 16 plan.cmp else b.t1cmpa
    t1cmpb := if ch = .b then BitVec.ofNat 16 plan.cmp else b.t1cmpb
    t1ctl := packT1ctl (decide (ch = .a)) (decide (ch = .b)) iea ieb (t1Ddra b.t1ctl || decide (ch = .a))
      (t1Ddrb b.t1ctl || decide (ch = .b))
    initPwm := true }

/-- `pwm_core(on_raw, per_raw, CH, IEA, IEB)`: every test before the first write (R106, R115). -/
def Block.pwmCore {p : Params} (b : Block p) (onRaw perRaw : Int) (ch : Selector) (iea ieb : Bool) : Block p :=
  match pwmPlan p onRaw perRaw ch with
  | .ok plan => (b.commitPwm plan ch iea ieb).done false
  | .error st => b.fail st

/-- PWMS (R110). -/
def Block.pwms {p : Params} (b : Block p) (ch : Selector) (iea ieb : Bool) : Block p :=
  b.pwmCore b.onRaw b.perRaw ch iea ieb

/-- PWMD (R111): the on-time is formed in the raw time domain and written nowhere. -/
def Block.pwmd {p : Params} (b : Block p) (ch : Selector) (iea ieb : Bool) : Block p :=
  if b.perRaw < 0 then b.fail .invalidTime
  else if b.dutyPercent < 0 ∨ b.dutyPercent > 100 then b.fail .invalidDutyCycle
  else b.pwmCore (b.perRaw * b.dutyPercent / 100) b.perRaw ch iea ieb

/-! ### The CTC8 profile -/

/-- CTCS's tests in order, then the search with an on-time of 0 (R104, R112, R113). -/
def ctcPlan (p : Params) (perRaw : Int) : Except Status Scaled :=
  if perRaw < 0 then .error .invalidTime
  else if cycles p.fClk perRaw.toNat > p.ceilCtc then .error .periodTooLarge
  else
    match selectPrescaler (cycles p.fClk perRaw.toNat) 0 maxCtc p.ratiosCtc with
    | none => .error .periodTooLarge
    | some x => .ok x

/-- The CTC8 commit (R113, R114): the compare register takes the scaled period itself (R112). -/
def Block.commitCtc {p : Params} (b : Block p) (x : Scaled) (ie : Bool) : Block p :=
  { b with
    t2ps := BitVec.ofNat 3 x.idx
    t2cmp := BitVec.ofNat 8 x.period
    t2ctl := BitVec.ofBool ie
    initCtc := true }

/-- CTCS (R113). -/
def Block.ctcs {p : Params} (b : Block p) (ie : Bool) : Block p :=
  match ctcPlan p b.perRaw with
  | .ok x => (b.commitCtc x ie).done false
  | .error st => b.fail st

/-! ### The meanings -/

/-- PWMS (R110). -/
def execPwms (ch : Selector) (iea ieb : Bool) (s : State) : Host.Outcome State Fault Refusal :=
  s.answer (s.block.pwms ch iea ieb)

/-- PWMD (R111). -/
def execPwmd (ch : Selector) (iea ieb : Bool) (s : State) : Host.Outcome State Fault Refusal :=
  s.answer (s.block.pwmd ch iea ieb)

/-- CTCS (R113). -/
def execCtcs (ie : Bool) (s : State) : Host.Outcome State Fault Refusal := s.answer (s.block.ctcs ie)

end Sys2Proof.Machine
end

