-- ==== Sys2Proof/Machine/Dispatch.lean ====
section
/-! DEFINITION. What each command does: one arm per constructor of `Instr`, each one direct call of its meaning (R78). -/

namespace Sys2Proof.Machine

/-- Execute a command (R78). -/
def exec (i : Instr) (s : State) : Host.Outcome State Fault Refusal :=
  match i with
  | .pwms ch iea ieb => Sys2Proof.Machine.execPwms ch iea ieb s
  | .pwmd ch iea ieb => Sys2Proof.Machine.execPwmd ch iea ieb s
  | .ctcs ie => Sys2Proof.Machine.execCtcs ie s
  | .evinit idx => Sys2Proof.Machine.execEvinit idx s
  | .evstart idx => Sys2Proof.Machine.execEvstart idx s
  | .evnow idx => Sys2Proof.Machine.execEvnow idx s
  | .evrst idx => Sys2Proof.Machine.execEvrst idx s
  | .evcan idx => Sys2Proof.Machine.execEvcan idx s
  | .evtick idx => Sys2Proof.Machine.execEvtick idx s
  | .evrdy idx => Sys2Proof.Machine.execEvrdy idx s
  | .evzero idx => Sys2Proof.Machine.execEvzero idx s
  | .tken => Sys2Proof.Machine.execTken s
  | .tkdis => Sys2Proof.Machine.execTkdis s

end Sys2Proof.Machine
end

