-- ==== Sys2Proof/Machine/Bus.lean ====
section
/-! DEFINITION. The bus primitives `MemRead` and `MemWrite` (R51, R52), the execution of a command word (R78), and what each
agent's turn does (R12). -/

namespace Sys2Proof.Machine

/-! ### The register map -/

/-- A register's number (R20, R50). -/
def HostReg.number : HostReg → Fin 16
  | .ont => 0
  | .per => 1
  | .duty => 2
  | .cnt => 3
  | .cmd => 4
  | .status => 5
  | .result => 6
  | .flags => 7
  | .t1ps => 8
  | .t1top => 9
  | .t1cmpa => 10
  | .t1cmpb => 11
  | .t1ctl => 12
  | .t2ps => 13
  | .t2cmp => 14
  | .t2ctl => 15

/-- The sixteen registers in the order of their numbers (R20). -/
def HostReg.all : List HostReg :=
  [.ont, .per, .duty, .cnt, .cmd, .status, .result, .flags, .t1ps, .t1top, .t1cmpa, .t1cmpb, .t1ctl, .t2ps, .t2cmp, .t2ctl]

/-- The register of a number: all sixteen are assigned (R50). -/
def HostReg.ofNumber (n : Fin 16) : HostReg := HostReg.all[n.val]

/-! ### Reads and writes -/

/-- What `MemRead` returns (R51): the register's content; 0 for `CMD` (R25); the window for `FLAGS` (R28). -/
def Block.memRead {p : Params} (b : Block p) : (r : HostReg) → BitVec (r.width p)
  | .ont => b.ont
  | .per => b.per
  | .duty => b.duty
  | .cnt => b.cnt
  | .cmd => (0 : BitVec 16)
  | .status => b.status
  | .result => b.result
  | .flags => b.flags
  | .t1ps => b.t1ps
  | .t1top => b.t1top
  | .t1cmpa => b.t1cmpa
  | .t1cmpb => b.t1cmpb
  | .t1ctl => b.t1ctl
  | .t2ps => b.t2ps
  | .t2cmp => b.t2cmp
  | .t2ctl => b.t2ctl

/-- What `MemWrite` stores (R52): an operand register takes the value; nothing is stored in `CMD`, and a write to a read-only
register is ignored. -/
def Block.store {p : Params} (b : Block p) : (r : HostReg) → BitVec (r.width p) → Block p
  | .ont, v => { b with ont := v }
  | .per, v => { b with per := v }
  | .duty, v => { b with duty := v }
  | .cnt, v => { b with cnt := v }
  | .cmd, _ => b
  | .status, _ => b
  | .result, _ => b
  | .flags, _ => b
  | .t1ps, _ => b
  | .t1top, _ => b
  | .t1cmpa, _ => b
  | .t1cmpb, _ => b
  | .t1ctl, _ => b
  | .t2ps, _ => b
  | .t2cmp, _ => b
  | .t2ctl, _ => b

/-- Execute a command word: the illegal-command outcome, or the command's rule (R78). -/
def command (w : CommandWord) (s : State) : Host.Outcome State Fault Refusal :=
  match decode s.params.nEvents w with
  | .ok i => exec i s
  | .error _ => s.answer s.block.illegalCommand

/-- `MemWrite(r, n, v)`: a write to `CMD` executes the word; any other write stores (R52, R78). -/
def busWrite (s : State) : (r : HostReg) → BitVec (r.width s.params) → Host.Outcome State Fault Refusal
  | .cmd, w => command w s
  | r, v => s.answer (s.block.store r v)

/-- `MemRead(r, n)`: the host receives the register's content; nothing in the block changes (R51). -/
def busRead (s : State) (r : HostReg) : Host.Outcome State Fault Refusal :=
  .next { s with hostData := some ⟨r, s.block.memRead r⟩ }

/-- A host transaction (R12, R51, R52). -/
def transact (s : State) (t : Transaction s.params) : Host.Outcome State Fault Refusal :=
  match t with
  | .read r => busRead s r
  | .write r v => busWrite s r v

/-- The write a list of pieces asks for, once the whole value has arrived, least significant byte first (R54). Spare bits of the
last piece are dropped (DESIGN CHOICE, assumption log 11). -/
def Transaction.ofPieces (p : Params) (r : HostReg) (bs : List Byte) : Option (Transaction p) :=
  if bs.length = pieceCount (r.width p) then some (.write r (valueOfPieces (r.width p) bs)) else none

/-- The pieces in which a reading reaches the host (R54); spare bits of the last one are 0 (DESIGN CHOICE, assumption
log 11). -/
def Reading.pieces {p : Params} (x : Reading p) : List Byte := piecesOf x.data

/-! ### Turns -/

/-- One agent's step (R12): the host's transaction, a tick arrival (R150), the dispatcher's turn (R152), or reset (R190). -/
def takeTurn (s : State) (t : Turn s.params) : Host.Outcome State Fault Refusal :=
  match t with
  | .host x => transact s x
  | .tickSource => s.answer s.block.tickArrival
  | .dispatcher => s.answer s.block.dispatcherTurn
  | .reset => s.answer (Block.reset s.params)

/-- No turn is scheduled: the dispatcher has its turn, and any finite list of further turns is scheduled after it. So the turns
of an endless run are any sequence in which the dispatcher's turn comes again and again, which is the weak fairness of R155
and no more (assumption log 3). -/
def refillStep (s : State) : Host.Outcome State Fault Refusal :=
  .next { s with
    block := s.block.dispatcherTurn
    schedule := Config.freeTurns s.params s.refills
    refills := s.refills + 1 }

/-- One step of the machine: the first scheduled turn, taken off the schedule; the dispatcher's, where none is scheduled. -/
def nextTurn (s : State) : Host.Outcome State Fault Refusal :=
  match s.schedule with
  | [] => refillStep s
  | t :: rest => takeTurn { s with schedule := rest } t

/-- The state with a command word placed as the host's very next transaction (assumption log 7). -/
def State.withCommand (s : State) (w : CommandWord) : State :=
  { s with schedule := .host (.write .cmd w) :: s.schedule }

end Sys2Proof.Machine
end

