-- ==== Sys2Proof/Machine/Step.lean ====
section
/-! DEFINITION. The step function and the placing of a command word before it; both only call the operations of
Machine/Bus.lean. -/

namespace Sys2Proof.Machine

/-- One step of the machine (R12). -/
def step (s : State) : Host.Outcome State Fault Refusal := nextTurn s

/-- `s` with the opcode table's word `w` of `nbits` bits placed where the next step takes its command from: the host's next
transaction writes it to `CMD`. The block fetches nothing (R42, R59; assumption log 7). -/
def State.withFetchWord (s : State) (nbits w : Nat) : State := s.withCommand (tableWord nbits w)

end Sys2Proof.Machine
end

