-- ==== Sys2Proof/Machine/Listing.lean ====
section
/-! DEFINITION. The listing syntax of R83 as data, and its expansion into turns. It binds nothing in the hardware: `step` does
not use it. Text is not parsed; a line here is what a parsed line holds (assumption log 12). -/

namespace Sys2Proof.Machine

/-- The registers `LDT` may name (R83). -/
inductive TimeReg where
  | ont
  | per
deriving DecidableEq, Repr

/-- A line of a listing (R83). A time in decimal seconds is its digits and the number of them after the point:
`digits / 10^places`. -/
inductive Line where
  /-- `WR reg, value`. -/
  | wr (r : HostReg) (value : Int)
  /-- `RD reg`. -/
  | rd (r : HostReg)
  /-- A command mnemonic with its operands. -/
  | command (i : Instr)
  /-- `LDT reg, t`. -/
  | ldt (r : TimeReg) (digits : Int) (places : Nat)
  /-- `EVSET i, n`. -/
  | evset (idx : BitVec 8) (n : Int)
  /-- `TICK`: one tick arrival. -/
  | tick
  /-- `DISPATCH`: one dispatch step. -/
  | dispatch
deriving DecidableEq, Repr

/-- The time pattern of `LDT`, rounded away from zero: `ceil(t × 2^32)` for `t ≥ 0`, `floor(t × 2^32)` below 0 (R83). -/
def timePattern (digits : Int) (places : Nat) : Int :=
  if 0 ≤ digits then -(-(digits * 2 ^ timeFraction) / (10 : Int) ^ places)
  else digits * 2 ^ timeFraction / (10 : Int) ^ places

/-- `WR reg, value`: a negative literal is its two's-complement pattern at the register's width (R83). Of a literal outside the
register's range, to which the spec gives no meaning, the low bits are kept (DESIGN CHOICE, assumption log 14); so too for
`LDT` and `EVSET`, which write through this. -/
def writeLine (p : Params) (r : HostReg) (value : Int) : Turn p := .host (.write r (BitVec.ofInt (r.width p) value))

/-- A command mnemonic: a write of its word to `CMD` (R83). -/
def commandLine (p : Params) (i : Instr) : Turn p := .host (.write .cmd (encode i))

/-- What a line stands for (R83). -/
def Line.expand (p : Params) : Line → List (Turn p)
  | .wr r value => [writeLine p r value]
  | .rd r => [.host (.read r)]
  | .command i => [commandLine p i]
  | .ldt .ont digits places => [writeLine p .ont (timePattern digits places)]
  | .ldt .per digits places => [writeLine p .per (timePattern digits places)]
  | .evset idx n => [writeLine p .cnt n, commandLine p (.evinit idx)]
  | .tick => [.tickSource]
  | .dispatch => [.dispatcher]

end Sys2Proof.Machine
end

