-- ==== Sys2Proof/Safety.lean ====
section
/-! DEFINITION. What claims are stated in: the invariant of the output registers (R45), the status codes in use (R161), what a
commit writes (R108, R109, R113), the illegal words read as numbers (R77), which turn a step takes, the block a step leaves,
runs of steps, and the count of ticks that arrive and that are dispatched (R151). -/

namespace Sys2Proof.Machine

/-! ### Invariants -/

/-- R45 (a): the counter top fits the halved 16-bit range. -/
abbrev Block.TopInRange {p : Params} (b : Block p) : Prop := b.t1top.toNat ≤ 32767

/-- R45 (b): the compare register of the channel the last PWM16 commit selected, which is the connected one, is at most the
top. -/
abbrev Block.CompareWithinTop {p : Params} (b : Block p) : Prop :=
  (t1Cona b.t1ctl = true → b.t1cmpa.toNat ≤ b.t1top.toNat) ∧ (t1Conb b.t1ctl = true → b.t1cmpb.toNat ≤ b.t1top.toNat)

/-- R45 (d), with the upper bounds of R29 and R34: a prescaler index is 0 exactly when its profile was never configured, and
never above the number of ratios plus one. -/
abbrev Block.IndexMatchesInit {p : Params} (b : Block p) : Prop :=
  (b.t1ps = 0 ↔ b.initPwm = false) ∧ (b.t2ps = 0 ↔ b.initCtc = false) ∧
    b.t1ps.toNat ≤ p.ratiosPwm.length + 1 ∧ b.t2ps.toNat ≤ p.ratiosCtc.length + 1

/-- R45 (e): not both channels are connected. -/
abbrev Block.OneChannelConnected {p : Params} (b : Block p) : Prop := ¬(t1Cona b.t1ctl = true ∧ t1Conb b.t1ctl = true)

/-- R45 (f): a connected channel's pin is marked. -/
abbrev Block.ConnectedIsMarked {p : Params} (b : Block p) : Prop :=
  (t1Cona b.t1ctl = true → t1Ddra b.t1ctl = true) ∧ (t1Conb b.t1ctl = true → t1Ddrb b.t1ctl = true)

/-- The invariant of the output registers (R45); its part (c), `T2CMP ≤ 255`, is the register's width. -/
abbrev Block.OutputsConsistent {p : Params} (b : Block p) : Prop :=
  b.TopInRange ∧ b.CompareWithinTop ∧ b.t2cmp.toNat ≤ 255 ∧ b.IndexMatchesInit ∧ b.OneChannelConnected ∧
    b.ConnectedIsMarked

/-- The codes 6 to 14 are never written (R161), and `RESULT` is 1 only where `STATUS` is 0 (R27). -/
abbrev Block.StatusInUse {p : Params} (b : Block p) : Prop :=
  (b.status.toNat ≤ 5 ∨ b.status.toNat = 15) ∧ (b.result = 1 → b.status = 0)

/-! ### What a command leaves -/

/-- The block after a failed command: the code, `RESULT` 0, nothing else (R160, R168). -/
abbrev Block.failedWith {p : Params} (b : Block p) (code : BitVec 4) : Block p := { b with status := code, result := 0 }

/-- `b'` is `b` after a PWM16 commit of an on-time and a period in raw units (R107 to R109, R114): with what the prescaler
search returns for their cycle counts. The bits of `T1CTL` are named by their places in R33. -/
def Block.IsPwmCommit {p : Params} (b b' : Block p) (onRaw perRaw : Nat) (ch : Selector) (iea ieb : Bool) : Prop :=
  ∃ (x : Scaled) (ctl : BitVec 6),
    selectPrescaler (cycles p.fClk perRaw) (cycles p.fClk onRaw) 65535 p.ratiosPwm = some x ∧
    1 ≤ x.idx ∧ x.idx ≤ p.ratiosPwm.length + 1 ∧ x.period ≤ 65535 ∧ x.onTime ≤ x.period ∧
    ctl.getLsbD 0 = decide (ch = .a) ∧ ctl.getLsbD 1 = decide (ch = .b) ∧
    ctl.getLsbD 2 = iea ∧ ctl.getLsbD 3 = ieb ∧
    ctl.getLsbD 4 = (decide (ch = .a) || b.t1ctl.getLsbD 4) ∧ ctl.getLsbD 5 = (decide (ch = .b) || b.t1ctl.getLsbD 5) ∧
    b' = { b with
      t1ps := BitVec.ofNat 3 x.idx
      t1top := BitVec.ofNat 16 (x.period / 2)
      t1cmpa := if ch = .a then BitVec.ofNat 16 (x.onTime / 2) else b.t1cmpa
      t1cmpb := if ch = .b then BitVec.ofNat 16 (x.onTime / 2) else b.t1cmpb
      t1ctl := ctl
      initPwm := true
      status := 0
      result := 0 }

/-- `b'` is `b` after a CTC8 commit of a period in raw units (R113, R114). -/
def Block.IsCtcCommit {p : Params} (b b' : Block p) (perRaw : Nat) (ie : Bool) : Prop :=
  ∃ x : Scaled,
    selectPrescaler (cycles p.fClk perRaw) 0 255 p.ratiosCtc = some x ∧
    1 ≤ x.idx ∧ x.idx ≤ p.ratiosCtc.length + 1 ∧ x.period ≤ 255 ∧
    b' = { b with
      t2ps := BitVec.ofNat 3 x.idx
      t2cmp := BitVec.ofNat 8 x.period
      t2ctl := BitVec.ofBool ie
      initCtc := true
      status := 0
      result := 0 }

/-- Two blocks agree on everything a PWM16 command with selector `ch` computes (R116): the status, and after a success the
index, the top, the connect and enable bits, the selected compare register and the initialised flag. -/
def Block.AgreeOnPwm {p : Params} (ch : Selector) (b c : Block p) : Prop :=
  b.status = c.status ∧ b.result = c.result ∧
    (b.status = 0 →
      b.t1ps = c.t1ps ∧ b.t1top = c.t1top ∧ b.initPwm = c.initPwm ∧
      (∀ k < 4, b.t1ctl.getLsbD k = c.t1ctl.getLsbD k) ∧
      (ch = .a → b.t1cmpa = c.t1cmpa ∧ b.t1ctl.getLsbD 4 = c.t1ctl.getLsbD 4) ∧
      (ch = .b → b.t1cmpb = c.t1cmpb ∧ b.t1ctl.getLsbD 5 = c.t1ctl.getLsbD 5))

/-- Two blocks agree on everything CTCS computes (R116). -/
def Block.AgreeOnCtc {p : Params} (b c : Block p) : Prop :=
  b.status = c.status ∧ b.result = c.result ∧
    (b.status = 0 → b.t2ps = c.t2ps ∧ b.t2cmp = c.t2cmp ∧ b.t2ctl = c.t2ctl ∧ b.initCtc = c.initCtc)

/-! ### Words and families -/

/-- An illegal word, condition by condition as R77 lists them, with the fields of R71 read as numbers. -/
def IllegalWord (nEvents : Nat) (w : CommandWord) : Prop :=
  let op := w.toNat / 4096
  let z := w.toNat / 256 % 16
  let arg := w.toNat % 256
  z ≠ 0 ∨ (op = 0 ∨ op = 14 ∨ op = 15) ∨ ((op = 1 ∨ op = 2) ∧ arg / 16 ≠ 0) ∨ (op = 3 ∧ arg / 2 ≠ 0) ∨
    ((4 ≤ op ∧ op ≤ 11) ∧ nEvents ≤ arg) ∨ ((op = 12 ∨ op = 13) ∧ arg ≠ 0)

/-- The three timer configuration commands (spec/40_timer_engine.md). -/
def isTimerCommand : Instr → Bool
  | .pwms _ _ _ => true
  | .pwmd _ _ _ => true
  | .ctcs _ => true
  | .evinit _ => false
  | .evstart _ => false
  | .evnow _ => false
  | .evrst _ => false
  | .evcan _ => false
  | .evtick _ => false
  | .evrdy _ => false
  | .evzero _ => false
  | .tken => false
  | .tkdis => false

/-! ### Turns of a run -/

/-- The turn a step takes, if one is scheduled. -/
def State.turn? (s : State) : Option (Turn s.params) := s.schedule.head?

/-- The next step is a tick arrival (R150). -/
def State.tickArrives (s : State) : Bool := decide (s.turn? = some .tickSource)

/-- The next step is a dispatch: it is the dispatcher's turn, or no turn is scheduled, and the dispatch is enabled (R152,
assumption log 2 and 3). -/
def State.dispatches (s : State) : Bool :=
  (decide (s.turn? = some .dispatcher) || decide (s.turn? = none)) && s.block.dispatchEnabled

/-- The step of `s` leaves the block `b'`, whatever it does to what the outside agents hold. -/
def State.StepsTo (s : State) (b' : Block s.params) : Prop :=
  ∃ q n h, step s = .next { s with block := b', schedule := q, refills := n, hostData := h }

/-- The first `k` steps from `s`, one after the other. -/
def runSteps : Nat → State → Host.Outcome State Fault Refusal
  | 0, s => .next s
  | k + 1, s =>
    match step s with
    | .next s' => runSteps k s'
    | .fault r => .fault r
    | .refused r => .refused r

/-- How many of the first `k` steps from `s` satisfy `f`. -/
def countSteps (f : State → Bool) : Nat → State → Nat
  | 0, _ => 0
  | k + 1, s =>
    (if f s then 1 else 0) +
      match step s with
      | .next s' => countSteps f k s'
      | .fault _ => 0
      | .refused _ => 0

end Sys2Proof.Machine
end

