-- ==== Sys2Proof/Certificates/Slice0/Obligations.lean ====
section
/-! DEFINITION. The statements for the provers, from the numbered rules of spec/. A command's result is stated as the whole
next state, so each such statement holds the command's frame too: what the equation does not name is unchanged, the schedule
and the host's data among it. A state says of which build it is a
state, so a statement about every state is about every build; where a statement speaks of a step and of the block before and
after it, it says so with `State.StepsTo`. -/

open Sys2Proof Sys2Proof.Machine

/-! ### Encoding -/

/-- Decoding the word of a well-formed command gives the command back, in a build with any number of cells and for every
value of every field (30_encoding.md sections 1 and 2). -/
def Obligations.DecodeOfEncodeIsTheCommand : Prop :=
  ∀ (n : Nat) (i : Instr), i.wellFormed n = true → decode n (encode i) = .ok i

/-- A word that decodes is the encoding of what it decodes to, and that command is well formed: each legal word has one
meaning and no bit of it is dropped (30_encoding.md sections 1 to 3). -/
def Obligations.EncodeOfDecodeIsTheWord : Prop :=
  ∀ (n : Nat) (w : CommandWord) (i : Instr), decode n w = .ok i → encode i = w ∧ i.wellFormed n = true

/-- R77: a word is legal exactly when none of the six conditions holds; an illegal word writes 15 to `STATUS` and 0 to
`RESULT` and nothing else; `0x0000` is illegal; with eight cells there are 100 legal words. R167: the code is 15, whatever
else holds in the state. -/
def Obligations.IllegalWordsReportIllegalCommand : Prop :=
  (∀ (n : Nat) (w : CommandWord), (∃ i, decode n w = .ok i) ↔ ¬IllegalWord n w) ∧
  (∀ (s : State) (rest : List (Turn s.params)) (w : CommandWord), IllegalWord s.params.nEvents w →
    step { s with schedule := .host (.write .cmd w) :: rest } =
      .next { s with schedule := rest, block := { s.block with status := 15, result := 0 } }) ∧
  (∀ n : Nat, IllegalWord n 0) ∧
  (∃ ws : List CommandWord, ws.Nodup ∧ ws.length = 100 ∧ ∀ w, w ∈ ws ↔ ¬IllegalWord 8 w)

/-- From R78: when the host's transaction writes a legal word to `CMD`, the step is the decoded command's execution on the state
with the transaction taken off the schedule; and a word placed by `withFetchWord` runs as the very next step. -/
def Obligations.StepRunsTheDecodedCommand : Prop :=
  (∀ (s : State) (rest : List (Turn s.params)) (w : CommandWord) (i : Instr),
    decode s.params.nEvents w = .ok i →
    step { s with schedule := .host (.write .cmd w) :: rest } = exec i { s with schedule := rest }) ∧
  (∀ (s : State) (i : Instr), i.wellFormed s.params.nEvents = true →
    step (s.withFetchWord 16 (encode i).toNat) = exec i s)

/-- Words written out from the encodings of R72 to R76 decode to the commands they stand for, one of each family. -/
def Obligations.WrittenOutWordsDecode : Prop :=
  decode 8 0b0001000000000101#16 = .ok (.pwms .a true false) ∧
  decode 8 0b0010000000001010#16 = .ok (.pwmd .b false true) ∧
  decode 8 0b0011000000000001#16 = .ok (.ctcs true) ∧
  decode 8 0b1010000000000111#16 = .ok (.evrdy 7) ∧
  decode 8 0b1100000000000000#16 = .ok .tken

/-! ### The converter and the prescaler search -/

/-- R100: `cycles` is the exact product divided by 2^32 and rounded toward zero, and is monotone. -/
def Obligations.CyclesTruncatesTheExactProduct : Prop :=
  ∀ fClk a b : Nat,
    cycles fClk a = a * fClk / 2 ^ 32 ∧
    cycles fClk a * 2 ^ 32 ≤ a * fClk ∧ a * fClk < (cycles fClk a + 1) * 2 ^ 32 ∧
    (a ≤ b → cycles fClk a ≤ cycles fClk b)

/-- From R199: for a clock below 2^32 Hz, the time pattern of exactly `N` cycles, rounded up, converts to exactly `N`. -/
def Obligations.RoundedUpTimesConvertExactly : Prop :=
  ∀ fClk N : Nat, 0 < fClk → fClk < 2 ^ 32 → cycles fClk ((N * 2 ^ 32 + (fClk - 1)) / fClk) = N

/-- From R103, for every ratio list with entries of 2 or more, with `D k` the cumulative divisor at index `k`: (a) the scaled values
are one division each; (b) the index is the smallest that fits; (c) failure is exactly a period too large for the last
divisor; (d) the on-time stays within the period; (e) the scaled period is lossless up to truncation; (f) the index never
passes the end of the table. -/
def Obligations.PrescalerSearchFindsTheSmallestFit : Prop :=
  ∀ (P O M : Nat) (R : List Nat), (∀ r ∈ R, 2 ≤ r) →
    let D : Nat → Nat := fun k => (R.take (k - 1)).prod
    (∀ x, selectPrescaler P O M R = some x →
      1 ≤ x.idx ∧ x.idx ≤ R.length + 1 ∧
      x.period = P / D x.idx ∧ x.onTime = O / D x.idx ∧
      P / D x.idx ≤ M ∧ (∀ k, 1 ≤ k → k < x.idx → M < P / D k) ∧
      (O ≤ P → x.onTime ≤ x.period) ∧
      x.period * D x.idx ≤ P ∧ P < (x.period + 1) * D x.idx) ∧
    (∀ k, 1 ≤ k → k ≤ R.length + 1 → (P / D k ≤ M ↔ P ≤ (M + 1) * D k - 1)) ∧
    (selectPrescaler P O M R = none ↔ M < P / D (R.length + 1)) ∧
    (selectPrescaler P O M R = none ↔ (M + 1) * R.prod ≤ P)

/-- From R104 and R7: a period within the ceiling never fails the search, for every table; the default ceilings are
67,107,840 and 261,120 cycles. -/
def Obligations.CeilingGuaranteesTheSearch : Prop :=
  (∀ (P O M : Nat) (R : List Nat), (∀ r ∈ R, 2 ≤ r) → P ≤ ceiling M R → ∃ x, selectPrescaler P O M R = some x) ∧
  Config.build.ceilPwm = 67107840 ∧ Config.build.ceilCtc = 261120

/-- From R107, in every build: what `pwm_core` computes from the search's values, and their ranges. -/
def Obligations.PwmValuesFitTheirRegisters : Prop :=
  ∀ (p : Params) (onRaw perRaw : Int) (ch : Selector) (plan : PwmPlan), pwmPlan p onRaw perRaw ch = .ok plan →
    ∃ x, selectPrescaler (cycles p.fClk perRaw.toNat) (cycles p.fClk onRaw.toNat) 65535 p.ratiosPwm = some x ∧
      plan.idx = x.idx ∧ plan.top = x.period / 2 ∧ plan.cmp = x.onTime / 2 ∧
      1 ≤ plan.idx ∧ plan.idx ≤ p.ratiosPwm.length + 1 ∧ x.period ≤ 65535 ∧ x.onTime ≤ x.period ∧
      plan.cmp ≤ plan.top ∧ plan.top ≤ 32767

/-! ### The timer commands -/

/-- R108, R109, in every build: where every test of `pwm_core` passes, its commit writes the searched values, the compare
register of the selected channel only, both connect flags, both interrupt enables and the selected channel's pin mark, and
nothing else but `INIT_PWM`, `STATUS` and `RESULT`. PWMS and PWMD both end in it. -/
def Obligations.PwmCoreCommitsNumbersAndRouting : Prop :=
  ∀ (p : Params) (b : Block p) (onRaw perRaw : Int) (ch : Selector) (iea ieb : Bool),
    0 ≤ onRaw → onRaw ≤ perRaw → cycles p.fClk perRaw.toNat ≤ 65535 * p.ratiosPwm.prod → ch ≠ .outside →
    b.IsPwmCommit (b.pwmCore onRaw perRaw ch iea ieb) onRaw.toNat perRaw.toNat ch iea ieb

/-- From R110: PWMS, where every test passes, commits the searched values, the routing, the enables and the pin marks, sets
`INIT_PWM`, reports success, and changes nothing else; the compare register of a channel not selected keeps its value. -/
def Obligations.PwmsCommitsTheRequest : Prop :=
  ∀ (s : State) (ch : Selector) (iea ieb : Bool),
    0 ≤ s.block.ont.toInt → s.block.ont.toInt ≤ s.block.per.toInt →
    cycles s.params.fClk s.block.per.toInt.toNat ≤ 65535 * s.params.ratiosPwm.prod → ch ≠ .outside →
    ∃ b', s.block.IsPwmCommit b' s.block.ont.toInt.toNat s.block.per.toInt.toNat ch iea ieb ∧
      exec (.pwms ch iea ieb) s = .next { s with block := b' }

/-- From R111: PWMD, where every test passes, commits the period with an on-time of `per × duty div 100` raw units; `ONT` is
neither read nor written. -/
def Obligations.PwmdCommitsTheDutyCycle : Prop :=
  ∀ (s : State) (ch : Selector) (iea ieb : Bool),
    0 ≤ s.block.per.toInt → 0 ≤ s.block.duty.toInt → s.block.duty.toInt ≤ 100 →
    cycles s.params.fClk s.block.per.toInt.toNat ≤ 65535 * s.params.ratiosPwm.prod → ch ≠ .outside →
    ∃ b', s.block.IsPwmCommit b' (s.block.per.toInt.toNat * s.block.duty.toInt.toNat / 100) s.block.per.toInt.toNat
        ch iea ieb ∧
      exec (.pwmd ch iea ieb) s = .next { s with block := b' }

/-- From R111: for a valid period and duty, PWMD has exactly the effect of PWMS with `ONT` holding the on-time it forms, whether
the command then succeeds or fails, except that `ONT` itself is left alone. -/
def Obligations.DutyModeEqualsTheCoreEntryPoint : Prop :=
  ∀ (s t : State) (ch : Selector) (iea ieb : Bool),
    0 ≤ s.block.per.toInt → 0 ≤ s.block.duty.toInt → s.block.duty.toInt ≤ 100 →
    exec (.pwms ch iea ieb)
        { s with block := { s.block with ont := BitVec.ofInt 64 (s.block.per.toInt * s.block.duty.toInt / 100) } } =
      .next t →
    exec (.pwmd ch iea ieb) s = .next { t with block := { t.block with ont := s.block.ont } }

/-- From R113: CTCS, where its two tests pass, commits the search of the period with an on-time of 0, writes the interrupt
enable, sets `INIT_CTC`, reports success, and changes nothing else. -/
def Obligations.CtcsCommitsThePeriod : Prop :=
  ∀ (s : State) (ie : Bool),
    0 ≤ s.block.per.toInt → cycles s.params.fClk s.block.per.toInt.toNat ≤ 255 * s.params.ratiosCtc.prod →
    ∃ b', s.block.IsCtcCommit b' s.block.per.toInt.toNat ie ∧ exec (.ctcs ie) s = .next { s with block := b' }

/-- R162 to R166: the status of each timer command is the code of the first test that fails, in the order negative time, duty
out of range (PWMD), on-time above period (PWMS, on the raw times), period above the ceiling, channel outside the set;
`RESULT` is 0; and with a code other than 0 nothing else has changed. The ceilings are the counter maximum times the product
of the ratios: 67,107,840 and 261,120 cycles with the default tables. -/
def Obligations.TimerCommandsReportTheFirstFailedTest : Prop :=
  (∀ (s : State) (ch : Selector) (iea ieb ie : Bool),
    let on := s.block.ont.toInt
    let per := s.block.per.toInt
    let duty := s.block.duty.toInt
    let pc := cycles s.params.fClk per.toNat
    let ceilPwm := 65535 * s.params.ratiosPwm.prod
    let ceilCtc := 255 * s.params.ratiosCtc.prod
    let reports : Instr → BitVec 4 → Prop := fun i code =>
      ∃ b', exec i s = .next { s with block := b' } ∧ b'.status = code ∧ b'.result = 0 ∧
        (code ≠ 0 → b' = s.block.failedWith code)
    reports (.pwms ch iea ieb)
      (if on < 0 ∨ per < 0 then 1 else if on > per then 2 else if pc > ceilPwm then 3 else if ch = .outside then 4 else 0) ∧
    reports (.pwmd ch iea ieb)
      (if per < 0 then 1 else if duty < 0 ∨ duty > 100 then 5 else if pc > ceilPwm then 3 else if ch = .outside then 4
        else 0) ∧
    reports (.ctcs ie) (if per < 0 then 1 else if pc > ceilCtc then 3 else 0)) ∧
  65535 * Config.build.ratiosPwm.prod = 67107840 ∧ 255 * Config.build.ratiosCtc.prod = 261120

/-- The document's idempotence property (95_test_vectors.md S2): a timer command given again, with the operands as they are,
leaves the whole state as the first one left it. -/
def Obligations.RepeatedConfigurationChangesNothing : Prop :=
  ∀ (i : Instr) (s t : State), isTimerCommand i = true → exec i s = .next t → exec i t = .next t

/-- From R116: what a timer command reports and commits depends on the operand registers it reads, its argument bits and the
build alone: two states of a build that agree on those operands, and on nothing else, agree afterwards on the status and on
every value committed. -/
def Obligations.ConfigurationDependsOnOperandsAlone : Prop :=
  ∀ (s : State) (c b' c' : Block s.params) (q : List (Turn s.params)) (n : Nat) (h : Option (Reading s.params))
    (ch : Selector) (iea ieb ie : Bool),
    let both : Instr → Prop := fun i =>
      exec i s = .next { s with block := b' } ∧
      exec i { s with block := c, schedule := q, refills := n, hostData := h } =
        .next { s with block := c', schedule := q, refills := n, hostData := h }
    s.block.per = c.per →
    (s.block.ont = c.ont → both (.pwms ch iea ieb) → Block.AgreeOnPwm ch b' c') ∧
    (s.block.duty = c.duty → both (.pwmd ch iea ieb) → Block.AgreeOnPwm ch b' c') ∧
    (both (.ctcs ie) → Block.AgreeOnCtc b' c')

/-! ### The event commands -/

/-- R131: EVINIT writes the reload value from `CNT` and disarms; the countdown is not written. -/
def Obligations.EvinitSetsTheReloadAndDisarms : Prop :=
  ∀ (s : State) (idx : BitVec 8) (_ : idx.toNat < s.params.nEvents),
    encode (.evinit idx) = 0x4000#16 + idx.setWidth 16 ∧
    exec (.evinit idx) s = .next { s with block := { s.block with
      cells := s.block.cells.set idx.toNat { s.block.cells[idx.toNat] with reload := s.block.cnt, planned := false }
      status := 0
      result := 0 } }

/-- R132: EVSTART loads the countdown from the reload value and arms. -/
def Obligations.EvstartLoadsAndArms : Prop :=
  ∀ (s : State) (idx : BitVec 8) (_ : idx.toNat < s.params.nEvents),
    encode (.evstart idx) = 0x5000#16 + idx.setWidth 16 ∧
    exec (.evstart idx) s = .next { s with block := { s.block with
      cells := s.block.cells.set idx.toNat
        { s.block.cells[idx.toNat] with countdown := s.block.cells[idx.toNat].reload, planned := true }
      status := 0
      result := 0 } }

/-- R133: EVNOW arms with the countdown at 0; the reload value is unchanged. -/
def Obligations.EvnowArmsAtZero : Prop :=
  ∀ (s : State) (idx : BitVec 8) (_ : idx.toNat < s.params.nEvents),
    encode (.evnow idx) = 0x6000#16 + idx.setWidth 16 ∧
    exec (.evnow idx) s = .next { s with block := { s.block with
      cells := s.block.cells.set idx.toNat { s.block.cells[idx.toNat] with countdown := 0, planned := true }
      status := 0
      result := 0 } }

/-- R134: EVRST loads the countdown from the reload value; the armed state is unchanged. -/
def Obligations.EvrstReloadsTheCountdown : Prop :=
  ∀ (s : State) (idx : BitVec 8) (_ : idx.toNat < s.params.nEvents),
    encode (.evrst idx) = 0x7000#16 + idx.setWidth 16 ∧
    exec (.evrst idx) s = .next { s with block := { s.block with
      cells := s.block.cells.set idx.toNat
        { s.block.cells[idx.toNat] with countdown := s.block.cells[idx.toNat].reload }
      status := 0
      result := 0 } }

/-- From R135: EVCAN disarms and does not alter the countdown. -/
def Obligations.EvcanDisarms : Prop :=
  ∀ (s : State) (idx : BitVec 8) (_ : idx.toNat < s.params.nEvents),
    encode (.evcan idx) = 0x8000#16 + idx.setWidth 16 ∧
    exec (.evcan idx) s = .next { s with block := { s.block with
      cells := s.block.cells.set idx.toNat { s.block.cells[idx.toNat] with planned := false }
      status := 0
      result := 0 } }

/-- R136: EVTICK takes exactly 1 from an armed cell above zero, and changes no cell otherwise. -/
def Obligations.EvtickDecrementsAnArmedCell : Prop :=
  ∀ (s : State) (idx : BitVec 8) (_ : idx.toNat < s.params.nEvents),
    encode (.evtick idx) = 0x9000#16 + idx.setWidth 16 ∧
    exec (.evtick idx) s = .next { s with block := { s.block with
      cells :=
        if s.block.cells[idx.toNat].planned = true ∧ 0 < s.block.cells[idx.toNat].countdown.toNat then
          s.block.cells.set idx.toNat
            { s.block.cells[idx.toNat] with
              countdown := BitVec.ofNat _ (s.block.cells[idx.toNat].countdown.toNat - 1) }
        else s.block.cells
      status := 0
      result := 0 } }

/-- R137: EVRDY returns 1 and disarms when the cell is armed and at zero; otherwise it returns 0 and changes no cell. -/
def Obligations.EvrdyConsumesReadiness : Prop :=
  ∀ (s : State) (idx : BitVec 8) (_ : idx.toNat < s.params.nEvents),
    encode (.evrdy idx) = 0xA000#16 + idx.setWidth 16 ∧
    exec (.evrdy idx) s = .next { s with block :=
      if s.block.cells[idx.toNat].planned = true ∧ s.block.cells[idx.toNat].countdown = 0 then
        { s.block with
          cells := s.block.cells.set idx.toNat { s.block.cells[idx.toNat] with planned := false }
          status := 0
          result := 1 }
      else { s.block with status := 0, result := 0 } }

/-- R138: EVZERO returns whether the countdown is 0, armed or not, and writes no cell. -/
def Obligations.EvzeroTestsTheCountdown : Prop :=
  ∀ (s : State) (idx : BitVec 8) (_ : idx.toNat < s.params.nEvents),
    encode (.evzero idx) = 0xB000#16 + idx.setWidth 16 ∧
    exec (.evzero idx) s = .next { s with block := { s.block with
      status := 0
      result := if s.block.cells[idx.toNat].countdown = 0 then 1 else 0 } }

/-- R130: an event command changes one cell, `STATUS` and `RESULT` only, succeeds whatever the state, and reads no operand
register, but for EVINIT, which reads `CNT`. -/
def Obligations.EventCommandsTouchOneCell : Prop :=
  ∀ (i : Instr) (idx : BitVec 8) (s : State), i.cell? = some idx → idx.toNat < s.params.nEvents →
    ∃ b', exec i s = .next { s with block := b' } ∧ b'.status = 0 ∧
      (∀ (j : Nat) (_ : j < s.params.nEvents), j ≠ idx.toNat → b'.cells[j] = s.block.cells[j]) ∧
      b' = { s.block with cells := b'.cells, status := 0, result := b'.result } ∧
      (∀ ont per duty cnt, (i = .evinit idx → cnt = s.block.cnt) →
        exec i { s with block := { s.block with ont := ont, per := per, duty := duty, cnt := cnt } } =
          .next { s with block := { b' with ont := ont, per := per, duty := duty, cnt := cnt } })

/-- From R38: in every step, a cell's countdown stays, or is loaded from the reload value, or with 0, or goes down by 1 from above
zero while the cell is armed. Nothing increments it. -/
def Obligations.CountdownsNeverWrap : Prop :=
  ∀ (s : State) (b' : Block s.params) (j : Nat) (_ : j < s.params.nEvents), s.StepsTo b' →
    b'.cells[j].countdown = s.block.cells[j].countdown ∨
    b'.cells[j].countdown = s.block.cells[j].reload ∨
    b'.cells[j].countdown = 0 ∨
    (s.block.cells[j].planned = true ∧ b'.cells[j].countdown.toNat + 1 = s.block.cells[j].countdown.toNat)

/-- From R140, at every count width: after a start, a cell is ready after `k` ticks exactly when `k` has reached the reload
value. -/
def Obligations.CellFiresAfterExactlyItsReload : Prop :=
  ∀ (w : Nat) (c : Cell w) (k : Nat), cellIsReady (tickCell^[k] (startCell c)) = decide (c.reload.toNat ≤ k)

/-- From R135 and R141, at every count width: a cancelled cell, and one never initialised, is left as it is by any number of
ticks, and is never ready. -/
def Obligations.DisarmedCellsStaySilent : Prop :=
  ∀ (w k : Nat) (c : Cell w),
    tickCell^[k] (cancelCell c) = cancelCell c ∧ cellIsReady (tickCell^[k] (cancelCell c)) = false ∧
    tickCell^[k] (Cell.reset w) = Cell.reset w ∧ cellIsReady (tickCell^[k] (Cell.reset w)) = false

/-- From R60 and R137: of two EVRDY on one cell with no step between them the second returns 0 and changes no cell; and a cell
whose readiness was consumed is not ready again after any number of ticks. -/
def Obligations.ReadinessIsReportedOnce : Prop :=
  (∀ (s : State) (b' : Block s.params) (idx : BitVec 8), idx.toNat < s.params.nEvents →
    exec (.evrdy idx) s = .next { s with block := b' } →
    exec (.evrdy idx) { s with block := b' } = .next { s with block := { b' with status := 0, result := 0 } }) ∧
  (∀ (w k : Nat) (c : Cell w), cellIsReady c = true → cellIsReady (tickCell^[k] (consumeCell c)) = false)

/-! ### The tick path -/

/-- R153: TKEN sets `TICK_EN`; a pending tick stays pending and is not dispatched by the command. -/
def Obligations.TkenEnablesDispatch : Prop :=
  encode .tken = 0xC000 ∧
  ∀ s : State, exec .tken s = .next { s with block := { s.block with tickEn := true, status := 0, result := 0 } }

/-- R154: TKDIS clears `TICK_EN` and leaves `TICK_PEND`; while `TICK_EN` is 0 no step is a dispatch, and only the word of TKEN
ends that. -/
def Obligations.TkdisDisablesDispatch : Prop :=
  encode .tkdis = 0xD000 ∧
  (∀ s : State, exec .tkdis s = .next { s with block := { s.block with tickEn := false, status := 0, result := 0 } }) ∧
  (∀ (s : State) (b' : Block s.params), s.block.tickEn = false → s.StepsTo b' →
    s.dispatches = false ∧
    (b'.tickEn = false ∨ s.turn? = some (.host (.write .cmd (0xC000 : CommandWord)))))

/-- R150: a tick arrival sets `TICK_PEND` and changes nothing else, whatever `TICK_EN` holds. -/
def Obligations.TickArrivalSetsPendingOnly : Prop :=
  ∀ (s : State) (rest : List (Turn s.params)),
    step { s with schedule := .tickSource :: rest } =
      .next { s with schedule := rest, block := { s.block with tickPend := true } }

/-- R152: at the dispatcher's turn a dispatch happens exactly when `TICK_PEND = 1` and `TICK_EN = 1`; it clears `TICK_PEND` and
ticks every cell in one step, and writes no register: cell by cell, an armed cell above zero loses exactly 1 and every other
cell is unchanged. -/
def Obligations.DispatchTicksEveryCell : Prop :=
  ∀ (s : State) (rest : List (Turn s.params)),
    (({ s with schedule := .dispatcher :: rest } : State).dispatches = true ↔
      s.block.tickPend = true ∧ s.block.tickEn = true) ∧
    (s.block.tickPend = true → s.block.tickEn = true →
      ∃ cells, step { s with schedule := .dispatcher :: rest } =
          .next { s with schedule := rest, block := { s.block with tickPend := false, cells := cells } } ∧
        ∀ (j : Nat) (_ : j < s.params.nEvents), cells[j] =
          if s.block.cells[j].planned = true ∧ 0 < s.block.cells[j].countdown.toNat then
            { s.block.cells[j] with countdown := BitVec.ofNat _ (s.block.cells[j].countdown.toNat - 1) }
          else s.block.cells[j])

/-- The model's choice (assumption log 2 and 3): the dispatcher's turn does nothing when the dispatch is not enabled; with no
turn scheduled the step is the dispatcher's turn, after which any finite list of turns, a free value, is scheduled. -/
def Obligations.DispatcherIdlesUnlessEnabled : Prop :=
  ∀ (s : State) (rest : List (Turn s.params)),
    (¬(s.block.tickPend = true ∧ s.block.tickEn = true) →
      step { s with schedule := .dispatcher :: rest } = .next { s with schedule := rest }) ∧
    ∃ b', step { s with schedule := .dispatcher :: rest } = .next { s with schedule := rest, block := b' } ∧
      step { s with schedule := [] } = .next { s with
        schedule := Config.freeTurns s.params s.refills
        refills := s.refills + 1
        block := b' }

/-- From R155, of the model's schedule (assumption log 1): every finite order of turns of every agent is a run. Whatever turns
are scheduled, the steps take them one by one in that order, from every state. -/
def Obligations.EveryOrderOfTurnsIsARun : Prop :=
  ∀ (s : State) (turns : List (Turn s.params)) (k : Nat), k ≤ turns.length →
    ∃ b' h, runSteps k { s with schedule := turns } =
      .next { s with schedule := turns.drop k, block := b', hostData := h }

/-- From R151: in any run of any length, the dispatches never outnumber the arrivals, but for a tick pending at the start; so
from reset they never do. What counts as a dispatch is the model's (assumption log 2 and 3). -/
def Obligations.DispatchesNeverExceedArrivals : Prop :=
  ∀ (k : Nat) (s : State),
    countSteps State.dispatches k s ≤ countSteps State.tickArrives k s + (if s.block.tickPend then 1 else 0)

/-- From R155, with the model's schedule (assumption log 1 and 3): an enabled dispatch does not stay enabled for ever. From every
state, so again and again in an endless run, the step after the scheduled turns refills the schedule and leaves no dispatch
enabled: it has happened or was disabled. -/
def Obligations.EnabledDispatchHappens : Prop :=
  ∀ s : State, ∃ u : State, runSteps (s.schedule.length + 1) s = .next u ∧ u.refills = s.refills + 1 ∧
    u.block.dispatchEnabled = false

/-- From R58: while dispatch is disabled and the host does nothing, no run of tick arrivals and dispatcher turns, of any length,
changes a cell or enables dispatch. -/
def Obligations.CriticalSectionKeepsTheCells : Prop :=
  ∀ (k : Nat) (s : State), s.block.tickEn = false → (∀ x ∈ s.schedule, x = .tickSource ∨ x = .dispatcher) →
    k ≤ s.schedule.length + 1 →
    ∃ b' q n, runSteps k s = .next { s with block := b', schedule := q, refills := n } ∧
      b'.cells = s.block.cells ∧ b'.tickEn = false

/-! ### Whole-machine rules -/

/-- From R156: no timer command affects the ticks or the cells; no other command, no tick arrival and no dispatch affects a
timer output register or an initialised flag. -/
def Obligations.TheTwoHalvesAreIndependent : Prop :=
  ∀ s : State,
    let timerKept : Block s.params → Prop := fun c =>
      c.t1ps = s.block.t1ps ∧ c.t1top = s.block.t1top ∧ c.t1cmpa = s.block.t1cmpa ∧ c.t1cmpb = s.block.t1cmpb ∧
        c.t1ctl = s.block.t1ctl ∧ c.t2ps = s.block.t2ps ∧ c.t2cmp = s.block.t2cmp ∧ c.t2ctl = s.block.t2ctl ∧
        c.initPwm = s.block.initPwm ∧ c.initCtc = s.block.initCtc
    (∀ (i : Instr) (b' : Block s.params), exec i s = .next { s with block := b' } →
      if isTimerCommand i then
        b'.cells = s.block.cells ∧ b'.tickPend = s.block.tickPend ∧ b'.tickEn = s.block.tickEn
      else timerKept b') ∧
    (∀ (b' : Block s.params), s.StepsTo b' →
      s.turn? = some .tickSource ∨ s.turn? = some .dispatcher ∨ s.turn? = none → timerKept b')

/-- From 10_state.md section 2 and R52: an operand register changes only in a step that is a host write to it, whose value it
then holds, or a reset. -/
def Obligations.OperandRegistersAreHostOwned : Prop :=
  ∀ (s : State) (b' : Block s.params), s.StepsTo b' → s.turn? ≠ some .reset →
    (b'.ont = s.block.ont ∨ s.turn? = some (.host (.write .ont b'.ont))) ∧
    (b'.per = s.block.per ∨ s.turn? = some (.host (.write .per b'.per))) ∧
    (b'.duty = s.block.duty ∨ s.turn? = some (.host (.write .duty b'.duty))) ∧
    (b'.cnt = s.block.cnt ∨ s.turn? = some (.host (.write .cnt b'.cnt)))

/-- From R41 and R203: nothing but reset clears a pin mark or an initialised flag. -/
def Obligations.OnlyResetClearsMarksAndInitFlags : Prop :=
  ∀ (s : State) (b' : Block s.params), s.StepsTo b' → s.turn? ≠ some .reset →
    (t1Ddra s.block.t1ctl = true → t1Ddra b'.t1ctl = true) ∧
    (t1Ddrb s.block.t1ctl = true → t1Ddrb b'.t1ctl = true) ∧
    (s.block.initPwm = true → b'.initPwm = true) ∧
    (s.block.initCtc = true → b'.initCtc = true)

/-- R168: a failed command, legal word or not, writes nothing but `STATUS` and `RESULT`; and of the legal commands only the
timer commands can fail. -/
def Obligations.FailedCommandsWriteStatusAndResultOnly : Prop :=
  (∀ (w : CommandWord) (s : State) (b' : Block s.params), command w s = .next { s with block := b' } → b'.status ≠ 0 →
    b' = { s.block with status := b'.status, result := 0 }) ∧
  (∀ (i : Instr) (s : State) (b' : Block s.params), i.wellFormed s.params.nEvents = true → isTimerCommand i = false →
    exec i s = .next { s with block := b' } → b'.status = 0)

/-- From R40: `TICK_EN` is set only by the word of TKEN and cleared only by the word of TKDIS or by reset. -/
def Obligations.OnlyTkenAndTkdisMoveTheEnable : Prop :=
  ∀ (s : State) (b' : Block s.params), s.StepsTo b' → b'.tickEn ≠ s.block.tickEn →
    (b'.tickEn = true ∧ s.turn? = some (.host (.write .cmd (0xC000 : CommandWord)))) ∨
    (b'.tickEn = false ∧
      (s.turn? = some (.host (.write .cmd (0xD000 : CommandWord))) ∨ s.turn? = some .reset))

/-- From R39 and R170: `TICK_PEND` is set only by a tick arrival and cleared only by a dispatch or by reset. -/
def Obligations.OnlyDispatchAndResetClearThePendingTick : Prop :=
  ∀ (s : State) (b' : Block s.params), s.StepsTo b' →
    (s.block.tickPend = false → b'.tickPend = true → s.turn? = some .tickSource) ∧
    (s.block.tickPend = true → b'.tickPend = false → s.dispatches = true ∨ s.turn? = some .reset)

/-- From R78, R160 and R207: every step of every state answers a next state: no command, access or tick can stop the block. -/
def Obligations.EveryStepAnswersNext : Prop :=
  (∀ s : State, ∃ t, step s = .next t) ∧ (∀ (i : Instr) (s : State), ∃ t, exec i s = .next t)

/-- From R43, with the build held in `State` (assumption log 5): no step and no command changes the build; every step leaves a
block of the same build, and a command changes nothing but the block. -/
def Obligations.EveryStepKeepsTheBuild : Prop :=
  (∀ s t : State, step s = .next t → t.params = s.params) ∧ (∀ s : State, ∃ b', s.StepsTo b') ∧
  (∀ (i : Instr) (s t : State), exec i s = .next t → ∃ b' : Block s.params, t = { s with block := b' })

/-! ### The bus -/

/-- From R51: a bus read gives the host the register's content as it stands (0 for `CMD`, the four bits for `FLAGS`) and changes no
state of the block. That what the host received is held in `hostData` is the model's
choice (assumption log 4). -/
def Obligations.BusReadsReturnTheContent : Prop :=
  (∀ (s : State) (rest : List (Turn s.params)) (r : HostReg),
    step { s with schedule := .host (.read r) :: rest } =
      .next { s with schedule := rest, hostData := some ⟨r, s.block.memRead r⟩ }) ∧
  (∀ (p : Params) (b : Block p),
    b.memRead .ont = b.ont ∧ b.memRead .per = b.per ∧ b.memRead .duty = b.duty ∧ b.memRead .cnt = b.cnt ∧
    b.memRead .cmd = (0 : BitVec 16) ∧ b.memRead .status = b.status ∧ b.memRead .result = b.result ∧
    b.memRead .t1ps = b.t1ps ∧ b.memRead .t1top = b.t1top ∧ b.memRead .t1cmpa = b.t1cmpa ∧
    b.memRead .t1cmpb = b.t1cmpb ∧ b.memRead .t1ctl = b.t1ctl ∧ b.memRead .t2ps = b.t2ps ∧
    b.memRead .t2cmp = b.t2cmp ∧ b.memRead .t2ctl = b.t2ctl ∧
    ∀ k, BitVec.getLsbD (w := 6) (b.memRead .flags) k =
      ((k == 0 && b.tickEn) || (k == 1 && b.tickPend) || (k == 4 && b.initPwm) || (k == 5 && b.initCtc)))

/-- R52: a bus write to an operand register is held by it and changes nothing else; a write to `CMD` executes the word; a write
to registers 5 to 15 is ignored. -/
def Obligations.BusWritesStoreExecuteOrAreIgnored : Prop :=
  ∀ (s : State) (rest : List (Turn s.params)),
    (∀ v, step { s with schedule := .host (.write .ont v) :: rest } =
      .next { s with schedule := rest, block := { s.block with ont := v } }) ∧
    (∀ v, step { s with schedule := .host (.write .per v) :: rest } =
      .next { s with schedule := rest, block := { s.block with per := v } }) ∧
    (∀ v, step { s with schedule := .host (.write .duty v) :: rest } =
      .next { s with schedule := rest, block := { s.block with duty := v } }) ∧
    (∀ v, step { s with schedule := .host (.write .cnt v) :: rest } =
      .next { s with schedule := rest, block := { s.block with cnt := v } }) ∧
    (∀ w, step { s with schedule := .host (.write .cmd w) :: rest } = command w { s with schedule := rest }) ∧
    (∀ (r : HostReg) (v : BitVec (r.width s.params)), 5 ≤ r.number.val →
      step { s with schedule := .host (.write r v) :: rest } = .next { s with schedule := rest })

/-- From R20 and R50: the sixteen numbers are all assigned, one to each register. -/
def Obligations.RegisterNumbersAreAllAssigned : Prop :=
  (∀ n : Fin 16, (HostReg.ofNumber n).number = n) ∧ (∀ r : HostReg, HostReg.ofNumber r.number = r)

/-- From R54, which gives the order of the pieces, least significant byte first, and that they carry the whole value: so they do,
at every width. The model's choices are the number of pieces, as few as hold the width (assumption log 11, DEDUCED), and, where
the width is no multiple of 8, that the spare bits of the last piece are 0 (assumption log 11, DESIGN CHOICE). -/
def Obligations.PiecesAreLeastSignificantFirst : Prop :=
  ∀ (n : Nat) (v : BitVec n),
    (piecesOf v).length = (n + 7) / 8 ∧ valueOfPieces n (piecesOf v) = v ∧
    ∀ (k : Nat) (_ : k < (piecesOf v).length), (piecesOf v)[k] = v.extractLsb' (8 * k) 8

/-! ### Reset -/

/-- From R44: after reset every bit of state is 0; so EVZERO on any cell returns 1 and EVRDY 0, and the prescaler index 0, which no
successful configuration leaves, tells a profile never configured. The reset turn gives this from every state (R190; that it is
one step, and leaves the schedule and the host's data, is the model's choice, assumption log 10). -/
def Obligations.ResetLeavesEveryBitZero : Prop :=
  (∀ p : Params, Block.reset p =
    { ont := 0, per := 0, duty := 0, cnt := 0, status := 0, result := 0, t1ps := 0, t1top := 0, t1cmpa := 0, t1cmpb := 0,
      t1ctl := 0, t2ps := 0, t2cmp := 0, t2ctl := 0,
      cells := Vector.replicate p.nEvents { countdown := 0, reload := 0, planned := false },
      tickPend := false, tickEn := false, initPwm := false, initCtc := false }) ∧
  (∀ (s : State) (rest : List (Turn s.params)),
    step { s with schedule := .reset :: rest } = .next { s with schedule := rest, block := Block.reset s.params }) ∧
  (∀ (p : Params) (idx : BitVec 8), idx.toNat < p.nEvents →
    exec (.evzero idx) (State.resetOf p) = .next { State.resetOf p with block := { Block.reset p with result := 1 } } ∧
    exec (.evrdy idx) (State.resetOf p) = .next (State.resetOf p)) ∧
  (∀ (s t : State) (ch : Selector) (iea ieb ie : Bool), t.block.status = 0 →
    (exec (.pwms ch iea ieb) s = .next t → t.block.t1ps ≠ 0) ∧
    (exec (.pwmd ch iea ieb) s = .next t → t.block.t1ps ≠ 0) ∧
    (exec (.ctcs ie) s = .next t → t.block.t2ps ≠ 0))

/-- The reset state meets the invariant of the output registers (from R45) and has a status code in use, in every build. -/
def Obligations.ResetMeetsTheInvariants : Prop :=
  ∀ p : Params, (Block.reset p).OutputsConsistent ∧ (Block.reset p).StatusInUse

/-- From R45 as the spec words it, in every build, for every schedule of turns placed at reset and every number of steps: the
invariant of the output registers holds. -/
def Obligations.OutputsConsistentAfterAnyRunFromReset : Prop :=
  ∀ (p : Params) (k : Nat) (turns : List (Turn p)) (t : State),
    runSteps k { State.resetOf p with schedule := turns } = .next t → t.block.OutputsConsistent

/-- From R45: every step keeps the invariant of the output registers: top and compare within range, an index of 0 exactly while
unconfigured, never both channels connected, a connected channel's pin marked. -/
def Obligations.StepKeepsOutputsConsistent : Prop :=
  ∀ s t : State, s.block.OutputsConsistent → step s = .next t → t.block.OutputsConsistent

/-- From R45, of the block by itself, in every build the parameters allow: each command, each store, a tick
arrival and the dispatcher's turn keep the invariant. -/
def Obligations.EveryBuildKeepsOutputsConsistent : Prop :=
  ∀ (p : Params) (b : Block p), b.OutputsConsistent →
    (∀ ch iea ieb, (b.pwms ch iea ieb).OutputsConsistent ∧ (b.pwmd ch iea ieb).OutputsConsistent) ∧
    (∀ ie, (b.ctcs ie).OutputsConsistent) ∧
    (∀ idx, (b.evinit idx).OutputsConsistent ∧ (b.evstart idx).OutputsConsistent ∧ (b.evnow idx).OutputsConsistent ∧
      (b.evrst idx).OutputsConsistent ∧ (b.evcan idx).OutputsConsistent ∧ (b.evtick idx).OutputsConsistent ∧
      (b.evrdy idx).OutputsConsistent ∧ (b.evzero idx).OutputsConsistent) ∧
    b.tken.OutputsConsistent ∧ b.tkdis.OutputsConsistent ∧ b.illegalCommand.OutputsConsistent ∧
    (∀ r v, (b.store r v).OutputsConsistent) ∧ b.tickArrival.OutputsConsistent ∧ b.dispatcherTurn.OutputsConsistent

/-- From R161 and R27: every step keeps `STATUS` at a code in use, and `RESULT` at 0 where `STATUS` is not 0. -/
def Obligations.StepKeepsStatusInUse : Prop :=
  ∀ s t : State, s.block.StatusInUse → step s = .next t → t.block.StatusInUse

/-! ### The listing syntax -/

/-- From R83: the rows of its table of expansions, `EVSET`, and the two lines that are not host transactions. In a build whose
counts are too narrow for the literal 5 of the row `EVSET 0, 5` (`CDW` of 1 or 2) that row keeps its low bits, which is the
model's choice (assumption log 14, DESIGN CHOICE); that a line is parsed data is assumption log 12. -/
def Obligations.ListingLinesExpandAsTheTable : Prop :=
  ∀ p : Params,
    Line.expand p (.command (.pwms .a true false)) = [.host (.write .cmd (0x1005 : CommandWord))] ∧
    Line.expand p (.command (.pwmd .b false true)) = [.host (.write .cmd (0x200A : CommandWord))] ∧
    Line.expand p (.command (.pwms .neither true true)) = [.host (.write .cmd (0x100C : CommandWord))] ∧
    Line.expand p (.command (.pwms .outside false false)) = [.host (.write .cmd (0x1003 : CommandWord))] ∧
    Line.expand p (.command (.ctcs true)) = [.host (.write .cmd (0x3001 : CommandWord))] ∧
    Line.expand p (.command (.evstart 2)) = [.host (.write .cmd (0x5002 : CommandWord))] ∧
    Line.expand p (.command (.evrdy 7)) = [.host (.write .cmd (0xA007 : CommandWord))] ∧
    Line.expand p (.ldt .per 1 0) = [.host (.write .per (0x0000000100000000 : TimeWord))] ∧
    Line.expand p (.ldt .per 1 3) = [.host (.write .per (0x0000000000418938 : TimeWord))] ∧
    Line.expand p (.evset 0 5) =
      [.host (.write .cnt (BitVec.ofNat p.cdw 5)), .host (.write .cmd (0x4000 : CommandWord))] ∧
    Line.expand p .tick = [.tickSource] ∧ Line.expand p .dispatch = [.dispatcher]

/-- From R83: the pattern of `LDT` for `digits / 10^places` seconds is the time rounded away from zero to a whole number of
2^-32 s. -/
def Obligations.TimePatternsRoundAwayFromZero : Prop :=
  ∀ (digits : Int) (places : Nat),
    (0 ≤ digits → (timePattern digits places - 1) * 10 ^ places < digits * 2 ^ 32 ∧
      digits * 2 ^ 32 ≤ timePattern digits places * 10 ^ places) ∧
    (digits < 0 → timePattern digits places * 10 ^ places ≤ digits * 2 ^ 32 ∧
      digits * 2 ^ 32 < (timePattern digits places + 1) * 10 ^ places)
end

