-- ==== Sys2Proof/Laws/PerInstr.lean ====
section
/-! SUPPORT. Per-command facts about the syntax: the fields of the encoded word (R71). -/

/-- The encoded word holds the command's opcode in `OP`, zero in `Z`, and its argument in `ARG` (R71, R76). -/
def Sys2Proof.Laws.Layout.Statement (i : Sys2Proof.Instr) : Prop :=
  Sys2Proof.opField (Sys2Proof.encode i) = i.opcode ∧ Sys2Proof.zField (Sys2Proof.encode i) = 0 ∧
    Sys2Proof.argField (Sys2Proof.encode i) = i.arg

namespace Sys2Proof.Laws.Layout

/-- A word's number, field by field. -/
theorem wordOf_toNat (op : BitVec 4) (arg : BitVec 8) : (wordOf op arg).toNat = op.toNat * 4096 + arg.toNat := by
  have h₁ := op.isLt
  have h₂ := arg.isLt
  simp only [wordOf, BitVec.toNat_ofNat]
  omega

/-- The fields of any word put together as R71 lays them out. -/
theorem fields_of_wordOf (op : BitVec 4) (arg : BitVec 8) :
    opField (wordOf op arg) = op ∧ zField (wordOf op arg) = 0 ∧ argField (wordOf op arg) = arg := by
  have h := wordOf_toNat op arg
  have h₁ := op.isLt
  have h₂ := arg.isLt
  refine ⟨?_, ?_, ?_⟩ <;> apply BitVec.eq_of_toNat_eq <;>
    simp [opField, zField, argField, BitVec.extractLsb'_toNat, h, Nat.shiftRight_eq_div_pow] <;> omega

theorem pwms (ch : Selector) (iea ieb : Bool) : Statement (.pwms ch iea ieb) := fields_of_wordOf _ _
theorem pwmd (ch : Selector) (iea ieb : Bool) : Statement (.pwmd ch iea ieb) := fields_of_wordOf _ _
theorem ctcs (ie : Bool) : Statement (.ctcs ie) := fields_of_wordOf _ _
theorem evinit (idx : BitVec 8) : Statement (.evinit idx) := fields_of_wordOf _ _
theorem evstart (idx : BitVec 8) : Statement (.evstart idx) := fields_of_wordOf _ _
theorem evnow (idx : BitVec 8) : Statement (.evnow idx) := fields_of_wordOf _ _
theorem evrst (idx : BitVec 8) : Statement (.evrst idx) := fields_of_wordOf _ _
theorem evcan (idx : BitVec 8) : Statement (.evcan idx) := fields_of_wordOf _ _
theorem evtick (idx : BitVec 8) : Statement (.evtick idx) := fields_of_wordOf _ _
theorem evrdy (idx : BitVec 8) : Statement (.evrdy idx) := fields_of_wordOf _ _
theorem evzero (idx : BitVec 8) : Statement (.evzero idx) := fields_of_wordOf _ _
theorem tken : Statement .tken := fields_of_wordOf _ _
theorem tkdis : Statement .tkdis := fields_of_wordOf _ _

end Sys2Proof.Laws.Layout
end

