-- ==== Sys2Proof/Laws/Decode.lean ====
section
/-! SUPPORT. The fields of a word as numbers, and the argument fields packed and unpacked. -/

namespace Sys2Proof

open Sys2Proof.Laws.Layout

/-- The fields of R71 read as numbers. -/
theorem fields_toNat (w : CommandWord) :
    (opField w).toNat = w.toNat / 4096 ∧ (zField w).toNat = w.toNat / 256 % 16 ∧ (argField w).toNat = w.toNat % 256 := by
  have := w.isLt
  simp [opField, zField, argField, BitVec.extractLsb'_toNat, Nat.shiftRight_eq_div_pow]
  omega

/-- A word whose `Z` is 0 is put together again from its other two fields. -/
theorem wordOf_fields (w : CommandWord) (h : zField w = 0) : wordOf (opField w) (argField w) = w := by
  obtain ⟨hop, hz, harg⟩ := fields_toNat w
  have hz0 : w.toNat / 256 % 16 = 0 := by rw [← hz, h]; rfl
  apply BitVec.eq_of_toNat_eq
  rw [wordOf_toNat, hop, harg]
  omega

/-- Unpacking a packed format T argument (R72). -/
theorem argT_fields (ch : Selector) (iea ieb : Bool) :
    selectorOf (argT ch iea ieb) = ch ∧ (argT ch iea ieb)[2] = iea ∧ (argT ch iea ieb)[3] = ieb ∧
      (argT ch iea ieb).extractLsb' 4 4 = 0 := by
  cases ch <;> cases iea <;> cases ieb <;> decide

/-- Packing an unpacked format T argument (R72). -/
theorem argT_of_fields : ∀ arg : BitVec 8, arg.extractLsb' 4 4 = 0 → argT (selectorOf arg) arg[2] arg[3] = arg := by decide

/-- Packing an unpacked format C argument (R73). -/
theorem argC_of_fields : ∀ arg : BitVec 8, arg.extractLsb' 1 7 = 0 → BitVec.ofNat 8 arg[0].toNat = arg := by decide

/-- The must-be-zero bits of format T as a number (R77 (c)). -/
theorem argT_mustBeZero : ∀ arg : BitVec 8, arg.extractLsb' 4 4 = 0 ↔ arg.toNat / 16 = 0 := by decide

/-- The must-be-zero bits of format C as a number (R77 (d)). -/
theorem argC_mustBeZero : ∀ arg : BitVec 8, arg.extractLsb' 1 7 = 0 ↔ arg.toNat / 2 = 0 := by decide

end Sys2Proof
end

