-- ==== Sys2Proof/Laws/State.lean ====
section
/-! SUPPORT. One lemma per field per update of the block, each true by rfl, so that no proof unfolds a record update; and the
same for the reset block and for `State.answer`. -/

namespace Sys2Proof.Machine

section
variable {p : Params} (b : Block p)

/-! ### done -/

@[simp] theorem Block.done_ont (r : Bool) : (b.done r).ont = b.ont := rfl
@[simp] theorem Block.done_per (r : Bool) : (b.done r).per = b.per := rfl
@[simp] theorem Block.done_duty (r : Bool) : (b.done r).duty = b.duty := rfl
@[simp] theorem Block.done_cnt (r : Bool) : (b.done r).cnt = b.cnt := rfl
@[simp] theorem Block.done_status (r : Bool) : (b.done r).status = Status.success.code := rfl
@[simp] theorem Block.done_result (r : Bool) : (b.done r).result = BitVec.ofBool r := rfl
@[simp] theorem Block.done_t1ps (r : Bool) : (b.done r).t1ps = b.t1ps := rfl
@[simp] theorem Block.done_t1top (r : Bool) : (b.done r).t1top = b.t1top := rfl
@[simp] theorem Block.done_t1cmpa (r : Bool) : (b.done r).t1cmpa = b.t1cmpa := rfl
@[simp] theorem Block.done_t1cmpb (r : Bool) : (b.done r).t1cmpb = b.t1cmpb := rfl
@[simp] theorem Block.done_t1ctl (r : Bool) : (b.done r).t1ctl = b.t1ctl := rfl
@[simp] theorem Block.done_t2ps (r : Bool) : (b.done r).t2ps = b.t2ps := rfl
@[simp] theorem Block.done_t2cmp (r : Bool) : (b.done r).t2cmp = b.t2cmp := rfl
@[simp] theorem Block.done_t2ctl (r : Bool) : (b.done r).t2ctl = b.t2ctl := rfl
@[simp] theorem Block.done_cells (r : Bool) : (b.done r).cells = b.cells := rfl
@[simp] theorem Block.done_tickPend (r : Bool) : (b.done r).tickPend = b.tickPend := rfl
@[simp] theorem Block.done_tickEn (r : Bool) : (b.done r).tickEn = b.tickEn := rfl
@[simp] theorem Block.done_initPwm (r : Bool) : (b.done r).initPwm = b.initPwm := rfl
@[simp] theorem Block.done_initCtc (r : Bool) : (b.done r).initCtc = b.initCtc := rfl

/-! ### fail -/

@[simp] theorem Block.fail_ont (st : Status) : (b.fail st).ont = b.ont := rfl
@[simp] theorem Block.fail_per (st : Status) : (b.fail st).per = b.per := rfl
@[simp] theorem Block.fail_duty (st : Status) : (b.fail st).duty = b.duty := rfl
@[simp] theorem Block.fail_cnt (st : Status) : (b.fail st).cnt = b.cnt := rfl
@[simp] theorem Block.fail_status (st : Status) : (b.fail st).status = st.code := rfl
@[simp] theorem Block.fail_result (st : Status) : (b.fail st).result = 0 := rfl
@[simp] theorem Block.fail_t1ps (st : Status) : (b.fail st).t1ps = b.t1ps := rfl
@[simp] theorem Block.fail_t1top (st : Status) : (b.fail st).t1top = b.t1top := rfl
@[simp] theorem Block.fail_t1cmpa (st : Status) : (b.fail st).t1cmpa = b.t1cmpa := rfl
@[simp] theorem Block.fail_t1cmpb (st : Status) : (b.fail st).t1cmpb = b.t1cmpb := rfl
@[simp] theorem Block.fail_t1ctl (st : Status) : (b.fail st).t1ctl = b.t1ctl := rfl
@[simp] theorem Block.fail_t2ps (st : Status) : (b.fail st).t2ps = b.t2ps := rfl
@[simp] theorem Block.fail_t2cmp (st : Status) : (b.fail st).t2cmp = b.t2cmp := rfl
@[simp] theorem Block.fail_t2ctl (st : Status) : (b.fail st).t2ctl = b.t2ctl := rfl
@[simp] theorem Block.fail_cells (st : Status) : (b.fail st).cells = b.cells := rfl
@[simp] theorem Block.fail_tickPend (st : Status) : (b.fail st).tickPend = b.tickPend := rfl
@[simp] theorem Block.fail_tickEn (st : Status) : (b.fail st).tickEn = b.tickEn := rfl
@[simp] theorem Block.fail_initPwm (st : Status) : (b.fail st).initPwm = b.initPwm := rfl
@[simp] theorem Block.fail_initCtc (st : Status) : (b.fail st).initCtc = b.initCtc := rfl

/-! ### commitPwm -/

@[simp] theorem Block.commitPwm_ont (x : PwmPlan) (ch : Selector) (iea ieb : Bool) :
    (b.commitPwm x ch iea ieb).ont = b.ont := rfl
@[simp] theorem Block.commitPwm_per (x : PwmPlan) (ch : Selector) (iea ieb : Bool) :
    (b.commitPwm x ch iea ieb).per = b.per := rfl
@[simp] theorem Block.commitPwm_duty (x : PwmPlan) (ch : Selector) (iea ieb : Bool) :
    (b.commitPwm x ch iea ieb).duty = b.duty := rfl
@[simp] theorem Block.commitPwm_cnt (x : PwmPlan) (ch : Selector) (iea ieb : Bool) :
    (b.commitPwm x ch iea ieb).cnt = b.cnt := rfl
@[simp] theorem Block.commitPwm_status (x : PwmPlan) (ch : Selector) (iea ieb : Bool) :
    (b.commitPwm x ch iea ieb).status = b.status := rfl
@[simp] theorem Block.commitPwm_result (x : PwmPlan) (ch : Selector) (iea ieb : Bool) :
    (b.commitPwm x ch iea ieb).result = b.result := rfl
@[simp] theorem Block.commitPwm_t1ps (x : PwmPlan) (ch : Selector) (iea ieb : Bool) :
    (b.commitPwm x ch iea ieb).t1ps = BitVec.ofNat 3 x.idx := rfl
@[simp] theorem Block.commitPwm_t1top (x : PwmPlan) (ch : Selector) (iea ieb : Bool) :
    (b.commitPwm x ch iea ieb).t1top = BitVec.ofNat 16 x.top := rfl
@[simp] theorem Block.commitPwm_t1cmpa (x : PwmPlan) (ch : Selector) (iea ieb : Bool) :
    (b.commitPwm x ch iea ieb).t1cmpa = if ch = .a then BitVec.ofNat 16 x.cmp else b.t1cmpa := rfl
@[simp] theorem Block.commitPwm_t1cmpb (x : PwmPlan) (ch : Selector) (iea ieb : Bool) :
    (b.commitPwm x ch iea ieb).t1cmpb = if ch = .b then BitVec.ofNat 16 x.cmp else b.t1cmpb := rfl
@[simp] theorem Block.commitPwm_t1ctl (x : PwmPlan) (ch : Selector) (iea ieb : Bool) :
    (b.commitPwm x ch iea ieb).t1ctl = packT1ctl (decide (ch = .a)) (decide (ch = .b)) iea ieb
      (t1Ddra b.t1ctl || decide (ch = .a)) (t1Ddrb b.t1ctl || decide (ch = .b)) := rfl
@[simp] theorem Block.commitPwm_t2ps (x : PwmPlan) (ch : Selector) (iea ieb : Bool) :
    (b.commitPwm x ch iea ieb).t2ps = b.t2ps := rfl
@[simp] theorem Block.commitPwm_t2cmp (x : PwmPlan) (ch : Selector) (iea ieb : Bool) :
    (b.commitPwm x ch iea ieb).t2cmp = b.t2cmp := rfl
@[simp] theorem Block.commitPwm_t2ctl (x : PwmPlan) (ch : Selector) (iea ieb : Bool) :
    (b.commitPwm x ch iea ieb).t2ctl = b.t2ctl := rfl
@[simp] theorem Block.commitPwm_cells (x : PwmPlan) (ch : Selector) (iea ieb : Bool) :
    (b.commitPwm x ch iea ieb).cells = b.cells := rfl
@[simp] theorem Block.commitPwm_tickPend (x : PwmPlan) (ch : Selector) (iea ieb : Bool) :
    (b.commitPwm x ch iea ieb).tickPend = b.tickPend := rfl
@[simp] theorem Block.commitPwm_tickEn (x : PwmPlan) (ch : Selector) (iea ieb : Bool) :
    (b.commitPwm x ch iea ieb).tickEn = b.tickEn := rfl
@[simp] theorem Block.commitPwm_initPwm (x : PwmPlan) (ch : Selector) (iea ieb : Bool) :
    (b.commitPwm x ch iea ieb).initPwm = true := rfl
@[simp] theorem Block.commitPwm_initCtc (x : PwmPlan) (ch : Selector) (iea ieb : Bool) :
    (b.commitPwm x ch iea ieb).initCtc = b.initCtc := rfl

/-! ### commitCtc -/

@[simp] theorem Block.commitCtc_ont (x : Scaled) (ie : Bool) : (b.commitCtc x ie).ont = b.ont := rfl
@[simp] theorem Block.commitCtc_per (x : Scaled) (ie : Bool) : (b.commitCtc x ie).per = b.per := rfl
@[simp] theorem Block.commitCtc_duty (x : Scaled) (ie : Bool) : (b.commitCtc x ie).duty = b.duty := rfl
@[simp] theorem Block.commitCtc_cnt (x : Scaled) (ie : Bool) : (b.commitCtc x ie).cnt = b.cnt := rfl
@[simp] theorem Block.commitCtc_status (x : Scaled) (ie : Bool) : (b.commitCtc x ie).status = b.status := rfl
@[simp] theorem Block.commitCtc_result (x : Scaled) (ie : Bool) : (b.commitCtc x ie).result = b.result := rfl
@[simp] theorem Block.commitCtc_t1ps (x : Scaled) (ie : Bool) : (b.commitCtc x ie).t1ps = b.t1ps := rfl
@[simp] theorem Block.commitCtc_t1top (x : Scaled) (ie : Bool) : (b.commitCtc x ie).t1top = b.t1top := rfl
@[simp] theorem Block.commitCtc_t1cmpa (x : Scaled) (ie : Bool) : (b.commitCtc x ie).t1cmpa = b.t1cmpa := rfl
@[simp] theorem Block.commitCtc_t1cmpb (x : Scaled) (ie : Bool) : (b.commitCtc x ie).t1cmpb = b.t1cmpb := rfl
@[simp] theorem Block.commitCtc_t1ctl (x : Scaled) (ie : Bool) : (b.commitCtc x ie).t1ctl = b.t1ctl := rfl
@[simp] theorem Block.commitCtc_t2ps (x : Scaled) (ie : Bool) : (b.commitCtc x ie).t2ps = BitVec.ofNat 3 x.idx := rfl
@[simp] theorem Block.commitCtc_t2cmp (x : Scaled) (ie : Bool) : (b.commitCtc x ie).t2cmp = BitVec.ofNat 8 x.period := rfl
@[simp] theorem Block.commitCtc_t2ctl (x : Scaled) (ie : Bool) : (b.commitCtc x ie).t2ctl = BitVec.ofBool ie := rfl
@[simp] theorem Block.commitCtc_cells (x : Scaled) (ie : Bool) : (b.commitCtc x ie).cells = b.cells := rfl
@[simp] theorem Block.commitCtc_tickPend (x : Scaled) (ie : Bool) : (b.commitCtc x ie).tickPend = b.tickPend := rfl
@[simp] theorem Block.commitCtc_tickEn (x : Scaled) (ie : Bool) : (b.commitCtc x ie).tickEn = b.tickEn := rfl
@[simp] theorem Block.commitCtc_initPwm (x : Scaled) (ie : Bool) : (b.commitCtc x ie).initPwm = b.initPwm := rfl
@[simp] theorem Block.commitCtc_initCtc (x : Scaled) (ie : Bool) : (b.commitCtc x ie).initCtc = true := rfl

/-! ### tickArrival -/

@[simp] theorem Block.tickArrival_ont : (b.tickArrival).ont = b.ont := rfl
@[simp] theorem Block.tickArrival_per : (b.tickArrival).per = b.per := rfl
@[simp] theorem Block.tickArrival_duty : (b.tickArrival).duty = b.duty := rfl
@[simp] theorem Block.tickArrival_cnt : (b.tickArrival).cnt = b.cnt := rfl
@[simp] theorem Block.tickArrival_status : (b.tickArrival).status = b.status := rfl
@[simp] theorem Block.tickArrival_result : (b.tickArrival).result = b.result := rfl
@[simp] theorem Block.tickArrival_t1ps : (b.tickArrival).t1ps = b.t1ps := rfl
@[simp] theorem Block.tickArrival_t1top : (b.tickArrival).t1top = b.t1top := rfl
@[simp] theorem Block.tickArrival_t1cmpa : (b.tickArrival).t1cmpa = b.t1cmpa := rfl
@[simp] theorem Block.tickArrival_t1cmpb : (b.tickArrival).t1cmpb = b.t1cmpb := rfl
@[simp] theorem Block.tickArrival_t1ctl : (b.tickArrival).t1ctl = b.t1ctl := rfl
@[simp] theorem Block.tickArrival_t2ps : (b.tickArrival).t2ps = b.t2ps := rfl
@[simp] theorem Block.tickArrival_t2cmp : (b.tickArrival).t2cmp = b.t2cmp := rfl
@[simp] theorem Block.tickArrival_t2ctl : (b.tickArrival).t2ctl = b.t2ctl := rfl
@[simp] theorem Block.tickArrival_cells : (b.tickArrival).cells = b.cells := rfl
@[simp] theorem Block.tickArrival_tickPend : (b.tickArrival).tickPend = true := rfl
@[simp] theorem Block.tickArrival_tickEn : (b.tickArrival).tickEn = b.tickEn := rfl
@[simp] theorem Block.tickArrival_initPwm : (b.tickArrival).initPwm = b.initPwm := rfl
@[simp] theorem Block.tickArrival_initCtc : (b.tickArrival).initCtc = b.initCtc := rfl

/-! ### dispatch -/

@[simp] theorem Block.dispatch_ont : (b.dispatch).ont = b.ont := rfl
@[simp] theorem Block.dispatch_per : (b.dispatch).per = b.per := rfl
@[simp] theorem Block.dispatch_duty : (b.dispatch).duty = b.duty := rfl
@[simp] theorem Block.dispatch_cnt : (b.dispatch).cnt = b.cnt := rfl
@[simp] theorem Block.dispatch_status : (b.dispatch).status = b.status := rfl
@[simp] theorem Block.dispatch_result : (b.dispatch).result = b.result := rfl
@[simp] theorem Block.dispatch_t1ps : (b.dispatch).t1ps = b.t1ps := rfl
@[simp] theorem Block.dispatch_t1top : (b.dispatch).t1top = b.t1top := rfl
@[simp] theorem Block.dispatch_t1cmpa : (b.dispatch).t1cmpa = b.t1cmpa := rfl
@[simp] theorem Block.dispatch_t1cmpb : (b.dispatch).t1cmpb = b.t1cmpb := rfl
@[simp] theorem Block.dispatch_t1ctl : (b.dispatch).t1ctl = b.t1ctl := rfl
@[simp] theorem Block.dispatch_t2ps : (b.dispatch).t2ps = b.t2ps := rfl
@[simp] theorem Block.dispatch_t2cmp : (b.dispatch).t2cmp = b.t2cmp := rfl
@[simp] theorem Block.dispatch_t2ctl : (b.dispatch).t2ctl = b.t2ctl := rfl
@[simp] theorem Block.dispatch_cells : (b.dispatch).cells = tickAll b.cells := rfl
@[simp] theorem Block.dispatch_tickPend : (b.dispatch).tickPend = false := rfl
@[simp] theorem Block.dispatch_tickEn : (b.dispatch).tickEn = b.tickEn := rfl
@[simp] theorem Block.dispatch_initPwm : (b.dispatch).initPwm = b.initPwm := rfl
@[simp] theorem Block.dispatch_initCtc : (b.dispatch).initCtc = b.initCtc := rfl

/-! ### tken -/

@[simp] theorem Block.tken_ont : (b.tken).ont = b.ont := rfl
@[simp] theorem Block.tken_per : (b.tken).per = b.per := rfl
@[simp] theorem Block.tken_duty : (b.tken).duty = b.duty := rfl
@[simp] theorem Block.tken_cnt : (b.tken).cnt = b.cnt := rfl
@[simp] theorem Block.tken_status : (b.tken).status = Status.success.code := rfl
@[simp] theorem Block.tken_result : (b.tken).result = BitVec.ofBool false := rfl
@[simp] theorem Block.tken_t1ps : (b.tken).t1ps = b.t1ps := rfl
@[simp] theorem Block.tken_t1top : (b.tken).t1top = b.t1top := rfl
@[simp] theorem Block.tken_t1cmpa : (b.tken).t1cmpa = b.t1cmpa := rfl
@[simp] theorem Block.tken_t1cmpb : (b.tken).t1cmpb = b.t1cmpb := rfl
@[simp] theorem Block.tken_t1ctl : (b.tken).t1ctl = b.t1ctl := rfl
@[simp] theorem Block.tken_t2ps : (b.tken).t2ps = b.t2ps := rfl
@[simp] theorem Block.tken_t2cmp : (b.tken).t2cmp = b.t2cmp := rfl
@[simp] theorem Block.tken_t2ctl : (b.tken).t2ctl = b.t2ctl := rfl
@[simp] theorem Block.tken_cells : (b.tken).cells = b.cells := rfl
@[simp] theorem Block.tken_tickPend : (b.tken).tickPend = b.tickPend := rfl
@[simp] theorem Block.tken_tickEn : (b.tken).tickEn = true := rfl
@[simp] theorem Block.tken_initPwm : (b.tken).initPwm = b.initPwm := rfl
@[simp] theorem Block.tken_initCtc : (b.tken).initCtc = b.initCtc := rfl

/-! ### tkdis -/

@[simp] theorem Block.tkdis_ont : (b.tkdis).ont = b.ont := rfl
@[simp] theorem Block.tkdis_per : (b.tkdis).per = b.per := rfl
@[simp] theorem Block.tkdis_duty : (b.tkdis).duty = b.duty := rfl
@[simp] theorem Block.tkdis_cnt : (b.tkdis).cnt = b.cnt := rfl
@[simp] theorem Block.tkdis_status : (b.tkdis).status = Status.success.code := rfl
@[simp] theorem Block.tkdis_result : (b.tkdis).result = BitVec.ofBool false := rfl
@[simp] theorem Block.tkdis_t1ps : (b.tkdis).t1ps = b.t1ps := rfl
@[simp] theorem Block.tkdis_t1top : (b.tkdis).t1top = b.t1top := rfl
@[simp] theorem Block.tkdis_t1cmpa : (b.tkdis).t1cmpa = b.t1cmpa := rfl
@[simp] theorem Block.tkdis_t1cmpb : (b.tkdis).t1cmpb = b.t1cmpb := rfl
@[simp] theorem Block.tkdis_t1ctl : (b.tkdis).t1ctl = b.t1ctl := rfl
@[simp] theorem Block.tkdis_t2ps : (b.tkdis).t2ps = b.t2ps := rfl
@[simp] theorem Block.tkdis_t2cmp : (b.tkdis).t2cmp = b.t2cmp := rfl
@[simp] theorem Block.tkdis_t2ctl : (b.tkdis).t2ctl = b.t2ctl := rfl
@[simp] theorem Block.tkdis_cells : (b.tkdis).cells = b.cells := rfl
@[simp] theorem Block.tkdis_tickPend : (b.tkdis).tickPend = b.tickPend := rfl
@[simp] theorem Block.tkdis_tickEn : (b.tkdis).tickEn = false := rfl
@[simp] theorem Block.tkdis_initPwm : (b.tkdis).initPwm = b.initPwm := rfl
@[simp] theorem Block.tkdis_initCtc : (b.tkdis).initCtc = b.initCtc := rfl

/-! ### illegalCommand -/

theorem Block.illegalCommand_eq : b.illegalCommand = b.fail .illegalCommand := rfl

end

/-! ### State -/

@[simp] theorem State.answer_eq (s : State) (b : Block s.params) : s.answer b = .next { s with block := b } := rfl

theorem State.reset_eq : State.reset = State.resetOf Config.build := rfl

@[simp] theorem State.resetOf_params (p : Params) : (State.resetOf p).params = p := rfl

@[simp] theorem State.resetOf_block (p : Params) : (State.resetOf p).block = Block.reset p := rfl

@[simp] theorem State.resetOf_schedule (p : Params) : (State.resetOf p).schedule = [] := rfl

@[simp] theorem State.resetOf_refills (p : Params) : (State.resetOf p).refills = 0 := rfl

@[simp] theorem State.resetOf_hostData (p : Params) : (State.resetOf p).hostData = none := rfl

@[simp] theorem State.withCommand_params (s : State) (w : CommandWord) : (s.withCommand w).params = s.params := rfl

@[simp] theorem State.withCommand_refills (s : State) (w : CommandWord) : (s.withCommand w).refills = s.refills := rfl

@[simp] theorem State.withCommand_block (s : State) (w : CommandWord) : (s.withCommand w).block = s.block := rfl

@[simp] theorem State.withCommand_schedule (s : State) (w : CommandWord) :
    (s.withCommand w).schedule = .host (.write .cmd w) :: s.schedule := rfl

@[simp] theorem State.withCommand_hostData (s : State) (w : CommandWord) : (s.withCommand w).hostData = s.hostData := rfl

end Sys2Proof.Machine
end

