-- ==== Sys2Proof/Laws/Flags.lean ====
section
/-! SUPPORT. The status codes, and the fields of a packed `T1CTL`. -/

namespace Sys2Proof.Machine

@[simp] theorem Status.code_success : Status.success.code = 0 := rfl

/-- Success is the only outcome with code 0 (R161). -/
@[simp] theorem Status.code_eq_zero (st : Status) : st.code = 0#4 ↔ st = .success := by cases st <;> decide

/-- Every code is one of those R161 lists. -/
theorem Status.code_inUse (st : Status) : st.code.toNat ≤ 5 ∨ st.code.toNat = 15 := by cases st <;> decide

section
variable (ca cb ia ib da db : Bool)

@[simp] theorem t1Cona_pack : t1Cona (packT1ctl ca cb ia ib da db) = ca := by
  revert ca cb ia ib da db; decide

@[simp] theorem t1Conb_pack : t1Conb (packT1ctl ca cb ia ib da db) = cb := by
  revert ca cb ia ib da db; decide

@[simp] theorem t1Iea_pack : t1Iea (packT1ctl ca cb ia ib da db) = ia := by
  revert ca cb ia ib da db; decide

@[simp] theorem t1Ieb_pack : t1Ieb (packT1ctl ca cb ia ib da db) = ib := by
  revert ca cb ia ib da db; decide

@[simp] theorem t1Ddra_pack : t1Ddra (packT1ctl ca cb ia ib da db) = da := by
  revert ca cb ia ib da db; decide

@[simp] theorem t1Ddrb_pack : t1Ddrb (packT1ctl ca cb ia ib da db) = db := by
  revert ca cb ia ib da db; decide

end

end Sys2Proof.Machine
end

