-- ==== Sys2Proof/Laws/Ops.lean ====
section
/-! SUPPORT. What each shared operation can do, said once: the access to one cell, the tick of one cell and of all. -/

namespace Sys2Proof.Machine

/-! ### One cell -/

/-- An event command with its cell in range (R130). -/
theorem Block.onCell_of_lt {p : Params} (b : Block p) {idx : BitVec 8} (f : Cell p.cdw → Cell p.cdw × Bool)
    (h : idx.toNat < p.nEvents) :
    b.onCell idx f =
      { b with
        cells := b.cells.set idx.toNat (f b.cells[idx.toNat]).1
        status := 0
        result := BitVec.ofBool (f b.cells[idx.toNat]).2 } := by
  simp [Block.onCell, h, Block.done]

/-- A cell number out of range has the illegal word's outcome (R77 (e), assumption log 8). -/
theorem Block.onCell_of_ge {p : Params} (b : Block p) {idx : BitVec 8} (f : Cell p.cdw → Cell p.cdw × Bool)
    (h : ¬idx.toNat < p.nEvents) : b.onCell idx f = b.fail .illegalCommand := by
  simp [Block.onCell, h, Block.illegalCommand_eq]

/-- Everything an access to one cell can do: the cells, `STATUS` and `RESULT` change, and only one cell, or it fails. -/
theorem Block.onCell_cases {p : Params} (b : Block p) (idx : BitVec 8) (f : Cell p.cdw → Cell p.cdw × Bool) :
    (∃ h : idx.toNat < p.nEvents, b.onCell idx f =
      { b with
        cells := b.cells.set idx.toNat (f b.cells[idx.toNat]).1
        status := 0
        result := BitVec.ofBool (f b.cells[idx.toNat]).2 }) ∨
    (¬idx.toNat < p.nEvents ∧ b.onCell idx f = b.fail .illegalCommand) := by
  by_cases h : idx.toNat < p.nEvents
  · exact .inl ⟨h, b.onCell_of_lt f h⟩
  · exact .inr ⟨h, b.onCell_of_ge f h⟩

/-! ### Ticks -/

/-- Everything a tick can do to a cell (R136). -/
theorem tickCell_cases {w : Nat} (c : Cell w) :
    (c.planned = true ∧ c.countdown ≠ 0 ∧ tickCell c = { c with countdown := c.countdown - 1 }) ∨
    ((c.planned = false ∨ c.countdown = 0) ∧ tickCell c = c) := by
  by_cases h : (c.planned && c.countdown != 0) = true
  · have h' := h
    rw [Bool.and_eq_true, bne_iff_ne] at h'
    exact .inl ⟨h'.1, h'.2, if_pos h⟩
  · refine .inr ⟨?_, if_neg h⟩
    by_cases hc : c.countdown = 0
    · exact .inr hc
    · rcases hp : c.planned with _ | _
      · exact .inl rfl
      · exact absurd (by rw [hp, bne_iff_ne.mpr hc]; rfl) h

/-- A tick leaves the armed state and the reload value. -/
@[simp] theorem tickCell_planned {w : Nat} (c : Cell w) : (tickCell c).planned = c.planned := by
  unfold tickCell; split <;> rfl

@[simp] theorem tickCell_reload {w : Nat} (c : Cell w) : (tickCell c).reload = c.reload := by
  unfold tickCell; split <;> rfl

/-- A tick takes one from an armed cell, never past zero, and nothing from a disarmed one (R136, R38). -/
theorem tickCell_countdown_toNat {w : Nat} (c : Cell w) :
    (tickCell c).countdown.toNat = if c.planned then c.countdown.toNat - 1 else c.countdown.toNat := by
  rcases tickCell_cases c with ⟨hp, hc, h⟩ | ⟨hp | hc, h⟩
  · have hpos : 0 < c.countdown.toNat := by
      rcases Nat.eq_zero_or_pos c.countdown.toNat with h0 | h0
      · exact absurd (BitVec.eq_of_toNat_eq (by simpa using h0)) hc
      · exact h0
    have hw : 1 < 2 ^ w := lt_of_le_of_lt hpos c.countdown.isLt
    rw [h, hp, if_pos rfl]
    show (c.countdown - 1).toNat = _
    rw [BitVec.toNat_sub_of_le] <;> simp [BitVec.le_def, BitVec.toNat_ofNat, Nat.mod_eq_of_lt hw]
    exact hpos
  · rw [h]; simp [hp]
  · rw [h]; simp [hc]

/-- Ticking all cells at once is ticking each (R152). -/
theorem tickAll_eq_map {w n : Nat} (cells : Vector (Cell w) n) : tickAll cells = cells.map tickCell := by
  apply Vector.toArray_inj.mp
  apply Array.toList_inj.mp
  simp [tickAll]
  rfl

@[simp] theorem tickAll_getElem {w n : Nat} (cells : Vector (Cell w) n) (j : Nat) (h : j < n) :
    (tickAll cells)[j] = tickCell cells[j] := by
  simp [tickAll_eq_map]

/-- Everything the dispatcher's turn can do (R152). -/
theorem Block.dispatcherTurn_cases {p : Params} (b : Block p) :
    (b.tickPend = true ∧ b.tickEn = true ∧ b.dispatcherTurn = b.dispatch) ∨
    (b.dispatchEnabled = false ∧ b.dispatcherTurn = b) := by
  rcases hp : b.tickPend <;> rcases he : b.tickEn <;> simp [Block.dispatcherTurn, Block.dispatchEnabled, hp, he]

end Sys2Proof.Machine
end

