-- ==== Sys2Proof/Laws/Events.lean ====
section
/-! SUPPORT. The cell functions of the event commands: readiness, its consumption, and the fields each function leaves. -/

namespace Sys2Proof.Machine

section
variable {w : Nat} (c : Cell w)

/-- A cell is ready when armed and at zero (R137). -/
theorem cellIsReady_iff : cellIsReady c = true ↔ c.planned = true ∧ c.countdown = 0 := by
  simp [cellIsReady]

theorem cellIsReady_eq_false_iff : cellIsReady c = false ↔ ¬(c.planned = true ∧ c.countdown = 0) := by
  rw [← cellIsReady_iff, Bool.not_eq_true]

theorem consumeCell_of_ready (h : cellIsReady c = true) : consumeCell c = { c with planned := false } := if_pos h

theorem consumeCell_of_not_ready (h : cellIsReady c = false) : consumeCell c = c := if_neg (by simp [h])

/-- A cell whose readiness was asked for is not ready (R137). -/
@[simp] theorem cellIsReady_consumeCell : cellIsReady (consumeCell c) = false := by
  cases h : cellIsReady c with
  | true => rw [consumeCell_of_ready c h]; rfl
  | false => rw [consumeCell_of_not_ready c h, h]

@[simp] theorem consumeCell_countdown : (consumeCell c).countdown = c.countdown := by
  unfold consumeCell; split <;> rfl

@[simp] theorem consumeCell_reload : (consumeCell c).reload = c.reload := by
  unfold consumeCell; split <;> rfl

@[simp] theorem initCell_countdown (n : BitVec w) : (initCell n c).countdown = c.countdown := rfl
@[simp] theorem initCell_reload (n : BitVec w) : (initCell n c).reload = n := rfl
@[simp] theorem initCell_planned (n : BitVec w) : (initCell n c).planned = false := rfl
@[simp] theorem startCell_countdown : (startCell c).countdown = c.reload := rfl
@[simp] theorem startCell_reload : (startCell c).reload = c.reload := rfl
@[simp] theorem startCell_planned : (startCell c).planned = true := rfl
@[simp] theorem startNowCell_countdown : (startNowCell c).countdown = 0 := rfl
@[simp] theorem startNowCell_reload : (startNowCell c).reload = c.reload := rfl
@[simp] theorem startNowCell_planned : (startNowCell c).planned = true := rfl
@[simp] theorem reloadCell_countdown : (reloadCell c).countdown = c.reload := rfl
@[simp] theorem reloadCell_reload : (reloadCell c).reload = c.reload := rfl
@[simp] theorem reloadCell_planned : (reloadCell c).planned = c.planned := rfl
@[simp] theorem cancelCell_countdown : (cancelCell c).countdown = c.countdown := rfl
@[simp] theorem cancelCell_reload : (cancelCell c).reload = c.reload := rfl
@[simp] theorem cancelCell_planned : (cancelCell c).planned = false := rfl

/-- A disarmed cell is left as it is by a tick (R136). -/
theorem tickCell_of_disarmed (h : c.planned = false) : tickCell c = c := by simp [tickCell, h]

end

end Sys2Proof.Machine
end

