-- ==== Sys2Proof/Laws/Timer.lean ====
section
/-! SUPPORT. What the timer engine's parts can do: one equation per case of the search, one inversion lemma per plan, and one
per command. -/

namespace Sys2Proof.Machine

/-! ### The search -/

theorem searchFrom_of_le {M : Nat} (R : List Nat) (idx : Nat) {sp : Nat} (so : Nat) (h : sp ≤ M) :
    searchFrom M R idx sp so = some ⟨idx, sp, so⟩ := by
  cases R <;> simp [searchFrom, h]

theorem searchFrom_nil_of_lt {M sp : Nat} (idx so : Nat) (h : M < sp) : searchFrom M [] idx sp so = none := by
  simp [searchFrom, Nat.not_le.mpr h]

theorem searchFrom_cons_of_lt {M sp : Nat} (r : Nat) (rs : List Nat) (idx so : Nat) (h : M < sp) :
    searchFrom M (r :: rs) idx sp so = searchFrom M rs (idx + 1) (sp / r) (so / r) := by
  simp [searchFrom, Nat.not_le.mpr h]

/-! ### The plans -/

/-- When `pwm_core` has values to commit, every test has passed, and these are the values (R106, R107). -/
theorem pwmPlan_ok {p : Params} {onRaw perRaw : Int} {ch : Selector} {plan : PwmPlan}
    (h : pwmPlan p onRaw perRaw ch = .ok plan) :
    0 ≤ onRaw ∧ 0 ≤ perRaw ∧ onRaw ≤ perRaw ∧ cycles p.fClk perRaw.toNat ≤ p.ceilPwm ∧ ch ≠ .outside ∧
    ∃ x, selectPrescaler (cycles p.fClk perRaw.toNat) (cycles p.fClk onRaw.toNat) maxPwm p.ratiosPwm = some x ∧
      plan = { idx := x.idx, top := x.period >>> 1, cmp := x.onTime >>> 1 } := by
  unfold pwmPlan at h
  split at h
  · simp at h
  · rename_i hneg
    split at h
    · simp at h
    · split at h
      · simp at h
      · split at h
        · simp at h
        · rename_i x hx
          split at h
          · simp at h
          · refine ⟨by omega, by omega, by omega, by omega, ‹_›, x, hx, ?_⟩
            simpa using h.symm

/-- When CTCS has values to commit, its tests have passed, and the search gave them (R113). -/
theorem ctcPlan_ok {p : Params} {perRaw : Int} {x : Scaled} (h : ctcPlan p perRaw = .ok x) :
    0 ≤ perRaw ∧ cycles p.fClk perRaw.toNat ≤ p.ceilCtc ∧
    selectPrescaler (cycles p.fClk perRaw.toNat) 0 maxCtc p.ratiosCtc = some x := by
  unfold ctcPlan at h
  split at h
  · simp at h
  · split at h
    · simp at h
    · split at h
      · simp at h
      · rename_i y hy
        exact ⟨by omega, by omega, by simpa [hy] using h⟩

/-! ### The commands -/

/-- Everything `pwm_core` can do: commit and succeed, or fail with one code and write nothing else (R106, R115). -/
theorem Block.pwmCore_cases {p : Params} (b : Block p) (onRaw perRaw : Int) (ch : Selector) (iea ieb : Bool) :
    (∃ plan, pwmPlan p onRaw perRaw ch = .ok plan ∧
      b.pwmCore onRaw perRaw ch iea ieb = (b.commitPwm plan ch iea ieb).done false) ∨
    (∃ st, pwmPlan p onRaw perRaw ch = .error st ∧ b.pwmCore onRaw perRaw ch iea ieb = b.fail st) := by
  unfold Block.pwmCore
  cases pwmPlan p onRaw perRaw ch with
  | ok plan => exact .inl ⟨plan, rfl, rfl⟩
  | error st => exact .inr ⟨st, rfl, rfl⟩

/-- Everything PWMD can do: fail on its own two tests, or be `pwm_core` on the on-time it forms (R111). -/
theorem Block.pwmd_cases {p : Params} (b : Block p) (ch : Selector) (iea ieb : Bool) :
    (b.perRaw < 0 ∧ b.pwmd ch iea ieb = b.fail .invalidTime) ∨
    (0 ≤ b.perRaw ∧ (b.dutyPercent < 0 ∨ b.dutyPercent > 100) ∧ b.pwmd ch iea ieb = b.fail .invalidDutyCycle) ∨
    (0 ≤ b.perRaw ∧ 0 ≤ b.dutyPercent ∧ b.dutyPercent ≤ 100 ∧
      b.pwmd ch iea ieb = b.pwmCore (b.perRaw * b.dutyPercent / 100) b.perRaw ch iea ieb) := by
  unfold Block.pwmd
  split
  · exact .inl ⟨‹_›, rfl⟩
  · split
    · exact .inr (.inl ⟨by omega, ‹_›, rfl⟩)
    · exact .inr (.inr ⟨by omega, by omega, by omega, rfl⟩)

/-- Everything CTCS can do (R113, R115). -/
theorem Block.ctcs_cases {p : Params} (b : Block p) (ie : Bool) :
    (∃ x, ctcPlan p b.perRaw = .ok x ∧ b.ctcs ie = (b.commitCtc x ie).done false) ∨
    (∃ st, ctcPlan p b.perRaw = .error st ∧ b.ctcs ie = b.fail st) := by
  unfold Block.ctcs
  cases ctcPlan p b.perRaw with
  | ok x => exact .inl ⟨x, rfl, rfl⟩
  | error st => exact .inr ⟨st, rfl, rfl⟩

end Sys2Proof.Machine
end

