-- ==== Sys2Proof/Laws/Step.lean ====
section
/-! SUPPORT. What a command and a step can do: one equation per turn, and one inversion lemma each for `command` and `step`. -/

namespace Sys2Proof.Machine

/-! ### Commands -/

/-- Two states of one build are equal when they agree field by field. -/
theorem next_inj {s : State} {b b' : Block s.params} {q q' n n' h h'}
    (e : (Host.Outcome.next { s with block := b, schedule := q, refills := n, hostData := h } : Host.Outcome State Fault Refusal) =
      .next { s with block := b', schedule := q', refills := n', hostData := h' }) : b = b' ∧ q = q' ∧ n = n' ∧ h = h' := by
  simpa using e

/-- A command answers a next state, in which only the block has changed (R78). -/
theorem exec_eq_next (i : Instr) (s : State) : ∃ b', exec i s = .next { s with block := b' } := by cases i <;> exact ⟨_, rfl⟩

/-- Everything a command can do to the block (R78): it is a PWM16 commit, a CTC8 commit, a failed timer command, an access to
one cell, or a change of the dispatch enable. -/
theorem exec_cases {i : Instr} {s : State} {b' : Block s.params} (h : exec i s = .next { s with block := b' }) :
    (isTimerCommand i = true ∧
        ((∃ onRaw perRaw ch iea ieb plan, pwmPlan s.params onRaw perRaw ch = .ok plan ∧
            b' = (s.block.commitPwm plan ch iea ieb).done false) ∨
          (∃ x ie, ctcPlan s.params s.block.perRaw = .ok x ∧ b' = (s.block.commitCtc x ie).done false) ∨
          ∃ st, b' = s.block.fail st)) ∨
      (isTimerCommand i = false ∧ ∃ idx f, i.cell? = some idx ∧ b' = s.block.onCell idx f) ∨
      (i = .tken ∧ b' = s.block.tken) ∨ (i = .tkdis ∧ b' = s.block.tkdis) := by
  have core : ∀ onRaw perRaw ch iea ieb,
      (∃ onRaw' perRaw' ch' iea' ieb' plan, pwmPlan s.params onRaw' perRaw' ch' = .ok plan ∧
        s.block.pwmCore onRaw perRaw ch iea ieb = (s.block.commitPwm plan ch' iea' ieb').done false) ∨
      ∃ st, s.block.pwmCore onRaw perRaw ch iea ieb = s.block.fail st := fun onRaw perRaw ch iea ieb => by
    rcases s.block.pwmCore_cases onRaw perRaw ch iea ieb with ⟨plan, hp, e⟩ | ⟨st, -, e⟩
    · exact .inl ⟨onRaw, perRaw, ch, iea, ieb, plan, hp, e⟩
    · exact .inr ⟨st, e⟩
  cases i <;> obtain rfl := (next_inj h).1
  case pwms ch iea ieb =>
    refine .inl ⟨rfl, ?_⟩
    rcases core s.block.onRaw s.block.perRaw ch iea ieb with hc | hc
    · exact .inl hc
    · exact .inr (.inr hc)
  case pwmd ch iea ieb =>
    refine .inl ⟨rfl, ?_⟩
    rcases s.block.pwmd_cases ch iea ieb with ⟨-, e⟩ | ⟨-, -, e⟩ | ⟨-, -, -, e⟩
    · exact .inr (.inr ⟨_, e⟩)
    · exact .inr (.inr ⟨_, e⟩)
    · rw [e]
      rcases core (s.block.perRaw * s.block.dutyPercent / 100) s.block.perRaw ch iea ieb with hc | hc
      · exact .inl hc
      · exact .inr (.inr hc)
  case ctcs ie =>
    refine .inl ⟨rfl, .inr ?_⟩
    rcases s.block.ctcs_cases ie with ⟨x, hx, e⟩ | ⟨st, -, e⟩
    · exact .inl ⟨x, ie, hx, e⟩
    · exact .inr ⟨st, e⟩
  case tken => exact .inr (.inr (.inl ⟨rfl, rfl⟩))
  case tkdis => exact .inr (.inr (.inr ⟨rfl, rfl⟩))
  all_goals exact .inr (.inl ⟨rfl, _, _, rfl, rfl⟩)

theorem command_of_ok {w : CommandWord} {i : Instr} (s : State) (h : decode s.params.nEvents w = .ok i) :
    command w s = exec i s := by
  simp [command, h]

theorem command_of_error {w : CommandWord} {e : DecodeError} (s : State) (h : decode s.params.nEvents w = .error e) :
    command w s = .next { s with block := s.block.fail .illegalCommand } := by
  simp [command, h, Block.illegalCommand_eq]

/-- Everything a command word can do (R78). -/
theorem command_cases (w : CommandWord) (s : State) :
    (∃ i, decode s.params.nEvents w = .ok i ∧ command w s = exec i s) ∨
    (∃ e, decode s.params.nEvents w = .error e ∧
      command w s = .next { s with block := s.block.fail .illegalCommand }) := by
  cases h : decode s.params.nEvents w with
  | ok i => exact .inl ⟨i, rfl, command_of_ok s h⟩
  | error e => exact .inr ⟨e, rfl, command_of_error s h⟩

/-- A command word answers a next state, in which only the block has changed. -/
theorem command_eq_next (w : CommandWord) (s : State) : ∃ b', command w s = .next { s with block := b' } := by
  rcases command_cases w s with ⟨i, -, h⟩ | ⟨e, -, h⟩
  · exact h ▸ exec_eq_next i s
  · exact ⟨_, h⟩

/-! ### The bus -/

@[simp] theorem busWrite_cmd (s : State) (w : CommandWord) : busWrite s .cmd w = command w s := rfl

theorem busWrite_of_ne {r : HostReg} (s : State) (v : BitVec (r.width s.params)) (h : r ≠ .cmd) :
    busWrite s r v = .next { s with block := s.block.store r v } := by
  cases r <;> first | rfl | exact absurd rfl h

/-- A write to a read-only register is ignored (R52). -/
theorem Block.store_of_readOnly {p : Params} (b : Block p) {r : HostReg} (v : BitVec (r.width p)) (h : 5 ≤ r.number.val) :
    b.store r v = b := by
  cases r <;> first | rfl | exact absurd h (by decide)

/-! ### Steps -/

section
variable (s : State) (rest : List (Turn s.params))

@[simp] theorem step_nil : step { s with schedule := [] } =
    .next { s with
      block := s.block.dispatcherTurn
      schedule := Config.freeTurns s.params s.refills
      refills := s.refills + 1 } := rfl

@[simp] theorem step_tickSource :
    step { s with schedule := .tickSource :: rest } = .next { s with schedule := rest, block := s.block.tickArrival } := rfl

@[simp] theorem step_dispatcher :
    step { s with schedule := .dispatcher :: rest } = .next { s with schedule := rest, block := s.block.dispatcherTurn } := rfl

@[simp] theorem step_reset :
    step { s with schedule := .reset :: rest } = .next { s with schedule := rest, block := Block.reset s.params } := rfl

@[simp] theorem step_read (r : HostReg) :
    step { s with schedule := .host (.read r) :: rest } =
      .next { s with schedule := rest, hostData := some ⟨r, s.block.memRead r⟩ } := rfl

@[simp] theorem step_write (r : HostReg) (v : BitVec (r.width s.params)) :
    step { s with schedule := .host (.write r v) :: rest } = busWrite { s with schedule := rest } r v := rfl

end

/-- Everything a step can do (R12): one case for each agent's turn, and for the host one for each kind of transaction. -/
theorem step_cases {s t : State} (h : step s = .next t) :
    (s.schedule = [] ∧ t = { s with
      block := s.block.dispatcherTurn
      schedule := Config.freeTurns s.params s.refills
      refills := s.refills + 1 }) ∨
    ∃ x rest, s.schedule = x :: rest ∧
      ((x = .tickSource ∧ t = { s with schedule := rest, block := s.block.tickArrival }) ∨
       (x = .dispatcher ∧ t = { s with schedule := rest, block := s.block.dispatcherTurn }) ∨
       (x = .reset ∧ t = { s with schedule := rest, block := Block.reset s.params }) ∨
       (∃ r, x = .host (.read r) ∧ t = { s with schedule := rest, hostData := some ⟨r, s.block.memRead r⟩ }) ∨
       (∃ r v, x = .host (.write r v) ∧ r ≠ .cmd ∧ t = { s with schedule := rest, block := s.block.store r v }) ∨
       (∃ w, x = .host (.write .cmd w) ∧ command w { s with schedule := rest } = .next t)) := by
  obtain ⟨p, b, sched, n, d⟩ := s
  cases sched with
  | nil => exact .inl ⟨rfl, (Host.Outcome.next.inj h).symm⟩
  | cons x rest =>
    refine .inr ⟨x, rest, rfl, ?_⟩
    cases x with
    | tickSource => exact .inl ⟨rfl, (Host.Outcome.next.inj h).symm⟩
    | dispatcher => exact .inr (.inl ⟨rfl, (Host.Outcome.next.inj h).symm⟩)
    | reset => exact .inr (.inr (.inl ⟨rfl, (Host.Outcome.next.inj h).symm⟩))
    | host y =>
      cases y with
      | read r => exact .inr (.inr (.inr (.inl ⟨r, rfl, (Host.Outcome.next.inj h).symm⟩)))
      | write r v =>
        by_cases hr : r = .cmd
        · subst hr
          exact .inr (.inr (.inr (.inr (.inr ⟨v, rfl, h⟩))))
        · refine .inr (.inr (.inr (.inr (.inl ⟨r, v, rfl, hr, ?_⟩))))
          have h' : busWrite ⟨p, b, rest, n, d⟩ r v = .next t := h
          rw [busWrite_of_ne _ _ hr] at h'
          exact (Host.Outcome.next.inj h').symm

/-- No step changes the build: its next state is a state of the same build (R43). -/
theorem step_eq_next (s : State) : ∃ b' q n h, step s = .next { s with block := b', schedule := q, refills := n, hostData := h } := by
  obtain ⟨p, b, sched, n, d⟩ := s
  cases sched with
  | nil => exact ⟨_, _, _, _, rfl⟩
  | cons x rest =>
    cases x with
    | tickSource => exact ⟨_, _, _, _, rfl⟩
    | dispatcher => exact ⟨_, _, _, _, rfl⟩
    | reset => exact ⟨_, _, _, _, rfl⟩
    | host y =>
      cases y with
      | read r => exact ⟨_, _, _, _, rfl⟩
      | write r v =>
        by_cases hr : r = .cmd
        · subst hr
          obtain ⟨b', h⟩ := command_eq_next v ⟨p, b, rest, n, d⟩
          exact ⟨b', _, _, _, h⟩
        · exact ⟨_, _, _, _, busWrite_of_ne ⟨p, b, rest, n, d⟩ v hr⟩

/-- Everything a step can do to the block (R12), and on which turn. -/
theorem State.StepsTo.cases {s : State} {b' : Block s.params} (h : s.StepsTo b') :
    ((s.turn? = none ∨ s.turn? = some .dispatcher) ∧ b' = s.block.dispatcherTurn) ∨
    (s.turn? = some .tickSource ∧ b' = s.block.tickArrival) ∨
    (s.turn? = some .reset ∧ b' = Block.reset s.params) ∨
    (∃ r, s.turn? = some (.host (.read r)) ∧ b' = s.block) ∨
    (∃ r v, s.turn? = some (.host (.write r v)) ∧ r ≠ .cmd ∧ b' = s.block.store r v) ∨
    (∃ w, s.turn? = some (.host (.write .cmd w)) ∧
      ((∃ i, decode s.params.nEvents w = .ok i ∧ exec i s = .next { s with block := b' }) ∨
        ((∃ e, decode s.params.nEvents w = .error e) ∧ b' = s.block.fail .illegalCommand))) := by
  obtain ⟨q, n, d, h⟩ := h
  rcases step_cases h with ⟨hs, e⟩ | ⟨x, rest, hs, ⟨rfl, e⟩ | ⟨rfl, e⟩ | ⟨rfl, e⟩ | ⟨r, rfl, e⟩ | ⟨r, v, rfl, hr, e⟩ | ⟨w, rfl, hw⟩⟩
  · exact .inl ⟨.inl (by simp [State.turn?, hs]), (next_inj (congrArg Host.Outcome.next e)).1⟩
  · exact .inr (.inl ⟨by simp [State.turn?, hs], (next_inj (congrArg Host.Outcome.next e)).1⟩)
  · exact .inl ⟨.inr (by simp [State.turn?, hs]), (next_inj (congrArg Host.Outcome.next e)).1⟩
  · exact .inr (.inr (.inl ⟨by simp [State.turn?, hs], (next_inj (congrArg Host.Outcome.next e)).1⟩))
  · exact .inr (.inr (.inr (.inl ⟨r, by simp [State.turn?, hs], (next_inj (congrArg Host.Outcome.next e)).1⟩)))
  · exact .inr (.inr (.inr (.inr (.inl ⟨r, v, by simp [State.turn?, hs], hr, (next_inj (congrArg Host.Outcome.next e)).1⟩))))
  · refine .inr (.inr (.inr (.inr (.inr ⟨w, by simp [State.turn?, hs], ?_⟩))))
    rcases command_cases w { s with schedule := rest } with ⟨i, hi, e⟩ | ⟨e, he, e'⟩
    · refine .inl ⟨i, hi, ?_⟩
      rw [e] at hw
      cases i <;> (obtain rfl := (next_inj hw).1; rfl)
    · rw [e'] at hw
      exact .inr ⟨⟨e, he⟩, (next_inj hw).1.symm⟩

end Sys2Proof.Machine
end

