-- ==== Sys2Proof/Tests/Slice0.lean ====
section
/-! SUPPORT. Small tests. Every expected value is from spec/95_test_vectors.md or the worked example of a rule, named in the
test's comment; none is the model's own answer. Timer vectors run at the clock frequency the vector states. -/

namespace Sys2Proof.Tests

open Sys2Proof.Machine

/-- A build with the defaults at 1 MHz, the `F_CLK` of most vectors. -/
abbrev mhz1 : Params := Config.defaultsAt 1000000 (by decide)

/-- A build with the defaults at 16 MHz. -/
abbrev mhz16 : Params := Config.defaultsAt 16000000 (by decide)

/-- A build with sixteen cells and counts of 8 bits. -/
abbrev cells16 : Params := { mhz1 with nEvents := 16, cdw := 8, valid := by decide }

/-- The reset state of a build with operand registers written. -/
abbrev loadedOf (p : Params) (ont per : TimeWord) (duty : DutyWord) : State :=
  { State.resetOf p with block := { Block.reset p with ont := ont, per := per, duty := duty } }

/-- `STATUS`, `T1PS`, `T1TOP`, `T1CMPA`, `T1CMPB`, `T1CTL`, as the vectors list them. -/
def pwmRow (s : State) : BitVec 4 × BitVec 3 × BitVec 16 × BitVec 16 × BitVec 16 × BitVec 6 :=
  (s.block.status, s.block.t1ps, s.block.t1top, s.block.t1cmpa, s.block.t1cmpb, s.block.t1ctl)

/-- `STATUS`, `T2PS`, `T2CMP`, `T2CTL`, as the vectors list them. -/
def ctcRow (s : State) : BitVec 4 × BitVec 3 × BitVec 8 × BitVec 1 :=
  (s.block.status, s.block.t2ps, s.block.t2cmp, s.block.t2ctl)

/-- A cell written as the vectors write it: countdown, default, armed. -/
def cell (n d : Nat) (armed : Bool) : Cell 16 := { countdown := BitVec.ofNat 16 n, reload := BitVec.ofNat 16 d, planned := armed }

/-- What `f` shows of the state an outcome holds. -/
def seen {α : Type} (f : State → α) : Host.Outcome State Fault Refusal → Option α
  | .next s => some (f s)
  | .fault _ => none
  | .refused _ => none

/-- The reset state with cell 0 set and `CNT = 9`, the start of the vectors of section 2.6. -/
abbrev withCell0 (c : Cell 16) : State :=
  { State.resetOf mhz1 with block := { Block.reset mhz1 with cnt := 9#16, cells := (Block.reset mhz1).cells.set 0 c (by decide) } }

/-- The first cell's countdown, default and armed bit, and `RESULT`. -/
def cell0 (s : State) : Nat × Nat × Bool × BitVec 1 :=
  let c := s.block.cells[0]'s.params.nEvents_pos
  (c.countdown.toNat, c.reload.toNat, c.planned, s.block.result)

/-! ### WellFormed: an ill-formed term for its one check -/

/-- 95_test_vectors.md E10: with `N_EVENTS = 8` there is no cell 8. -/
theorem test_wellFormed_refuses_cell_8 : Instr.wellFormed 8 (.evstart 8) = false := by decide

/-- 95_test_vectors.md E10: with `N_EVENTS = 16` there is. -/
theorem test_wellFormed_takes_cell_8_of_16 : Instr.wellFormed 16 (.evstart 8) = true := by decide

/-! ### Decoding: words written out bit by bit from R71 to R76 -/

/-- R72, R76: `0001 0000 0000 bacc`, PWMS B with IEB (W2). -/
theorem test_decode_pwms : decode 8 0b0001000000001010#16 = .ok (.pwms .b false true) := by decide

/-- R72: PWMS NONE, 1, 1 (R83's table of expansions). -/
theorem test_decode_pwms_neither : decode 8 0b0001000000001100#16 = .ok (.pwms .neither true true) := by decide

/-- R72: `CH = 3` is a legal word. -/
theorem test_decode_pwmd_outside : decode 8 0b0010000000001011#16 = .ok (.pwmd .outside false true) := by decide

/-- R73. -/
theorem test_decode_ctcs : decode 8 0b0011000000000001#16 = .ok (.ctcs true) := by decide

/-- R74, R76: the eight event opcodes in order, on cell 5. -/
theorem test_decode_events :
    [0b0100000000000101#16, 0b0101000000000101#16, 0b0110000000000101#16, 0b0111000000000101#16, 0b1000000000000101#16,
      0b1001000000000101#16, 0b1010000000000101#16, 0b1011000000000101#16].map (fun w => (decode 8 w).toOption) =
      [some (.evinit 5), some (.evstart 5), some (.evnow 5), some (.evrst 5), some (.evcan 5), some (.evtick 5),
        some (.evrdy 5), some (.evzero 5)] := by decide

/-- R75. -/
theorem test_decode_tken_tkdis : decode 8 0b1100000000000000#16 = .ok .tken ∧ decode 8 0b1101000000000000#16 = .ok .tkdis := by
  decide

/-- 95_test_vectors.md section 2.8, left column. -/
theorem test_decode_illegal_left :
    [0x0000#16, 0x0001#16, 0xE000#16, 0xF000#16, 0xFFFF#16, 0x1010#16, 0x1100#16, 0x2080#16].map (fun w => (decode 8 w).toOption) =
      List.replicate 8 none := by decide

/-- 95_test_vectors.md section 2.8, right column. -/
theorem test_decode_illegal_right :
    [0x3002#16, 0x3101#16, 0x4008#16, 0xA0FF#16, 0xB100#16, 0xC001#16, 0xD080#16, 0xDF00#16].map (fun w => (decode 8 w).toOption) =
      List.replicate 8 none := by decide

/-- R83's table of expansions. -/
theorem test_encode : encode (.pwms .a true false) = 0x1005 ∧ encode (.pwmd .b false true) = 0x200A ∧ encode (.evrdy 7) = 0xA007 := by
  decide

/-- R54: least significant byte first. -/
theorem test_pieces : piecesOf 0x1005#16 = [0x05#8, 0x10#8] ∧ valueOfPieces 16 [0x05#8, 0x10#8] = 0x1005#16 := by decide

/-- The host's view of a table row: the word of EVRDY 0 decodes and runs as the first step after reset. -/
theorem test_table_word_runs : decodeTableWord 16 0xA000 = some (.evrdy 0) ∧
    seen cell0 (step (State.reset.withFetchWord 16 0xA000)) = some (0, 0, false, 0) := by decide

/-- R191: PWMS right after reset succeeds with a period of 0, at every clock frequency. -/
theorem test_pwms_after_reset :
    seen pwmRow (step (State.reset.withFetchWord 16 0x1001)) = some (0, 1, 0, 0, 0, 0b010001) := by decide

/-- E10: with sixteen cells the step of `0x5008` starts cell 8, and with eight it is illegal. -/
theorem test_cell_8_of_16 :
    seen (fun s => (s.block.status, s.block.cells[8]?.map Cell.planned)) (step ((State.resetOf cells16).withFetchWord 16 0x5008)) =
      some (0, some true) ∧
    seen (fun s => (s.block.status, s.block.cells[7]?.map Cell.planned)) (step ((State.resetOf mhz1).withFetchWord 16 0x5008)) =
      some (15, some false) := by decide

/-- B3: with `CDW = 8` the host writes 8 bits of `CNT`, which EVINIT takes. -/
theorem test_count_of_8_bits :
    seen cell0 (exec (.evinit 0) { State.resetOf cells16 with block := (Block.reset cells16).store .cnt 0xFF#8 }) =
      some (0, 255, false, 0) := by decide

/-! ### The timer engine -/

/-- Section 2.1: 0.001 s rounded down and up at 1 MHz, and the 7 percent line at 16 MHz. -/
theorem test_cycles : cycles 1000000 4294967 = 999 ∧ cycles 1000000 4294968 = 1000 ∧ cycles 16000000 6012954 = 22399 := by decide

/-- Section 2.2: an on-time smaller than the divisor, the last accepted period, and the failure. -/
theorem test_search_pwm : selectPrescaler 65537 7 65535 [8, 8, 4, 4] = some ⟨2, 8192, 0⟩ ∧
    selectPrescaler 67108863 0 65535 [8, 8, 4, 4] = some ⟨5, 65535, 0⟩ ∧ selectPrescaler 67108864 0 65535 [8, 8, 4, 4] = none := by
  decide

/-- Section 2.3, W2. -/
theorem test_pwms_W2 : seen pwmRow (exec (.pwms .b false true) (loadedOf mhz1 0x624DD3 0x51EB852 0)) =
    some (0, 1, 10000, 0, 750, 0b101010) := by decide

/-- Section 2.3, W20 and W21: the ceiling and one cycle beyond it. -/
theorem test_pwms_ceiling :
    seen pwmRow (exec (.pwms .a false false) (loadedOf mhz1 0x431B9B66FA 0x431B9B66FA 0)) = some (0, 5, 32767, 32767, 0, 0b010001) ∧
    seen pwmRow (exec (.pwms .a false false) (loadedOf mhz1 0 0x431B9B77C1 0)) = some (3, 0, 0, 0, 0, 0) := by
  and_intros <;> decide

/-- Section 2.4, PD10: truncation of the on-time. -/
theorem test_pwmd_PD10 : seen pwmRow (exec (.pwmd .b false false) (loadedOf mhz16 0xDEAD 0x51EB852 7)) =
    some (0, 2, 20000, 0, 1399, 0b100010) := by decide

/-- Section 2.4, PD7, PD12 and PD13: the order of the tests. -/
theorem test_pwmd_priority :
    seen pwmRow (exec (.pwmd .a false false) (loadedOf mhz1 0 0xFFFFFFFFFFFFFFFF 101)) = some (1, 0, 0, 0, 0, 0) ∧
    seen pwmRow (exec (.pwmd .outside false false) (loadedOf mhz1 0 0x6400000000 200)) = some (5, 0, 0, 0, 0, 0) ∧
    seen pwmRow (exec (.pwmd .outside false false) (loadedOf mhz1 0 0x100000000 50)) = some (4, 0, 0, 0, 0, 0) := by
  and_intros <;> decide

/-- Section 2.5, CT17. -/
theorem test_ctcs_CT17 : seen ctcRow (exec (.ctcs true) (loadedOf mhz1 0 0x1999999A 0)) = some (0, 7, 97, 1) := by decide

/-- Section 2.5, CT26 and CT19: the sign of `ONT` does not matter, and the ceiling does. -/
theorem test_ctcs_CT26_CT19 :
    seen ctcRow (exec (.ctcs false) (loadedOf mhz1 0xFFFFFFFFFFFFFFFF 0x418938 0)) = some (0, 2, 125, 0) ∧
    seen ctcRow (exec (.ctcs true) (loadedOf mhz1 0 0x42D8D36C 0)) = some (3, 0, 0, 0) := by decide

/-! ### The event commands: section 2.6, columns `(3,5,1)` and `(0,5,1)` or `(0,5,0)` -/

theorem test_evinit : seen cell0 (exec (.evinit 0) (withCell0 (cell 3 5 true))) = some (3, 9, false, 0) := by decide

theorem test_evstart : seen cell0 (exec (.evstart 0) (withCell0 (cell 0 5 false))) = some (5, 5, true, 0) := by decide

theorem test_evnow : seen cell0 (exec (.evnow 0) (withCell0 (cell 3 5 false))) = some (0, 5, true, 0) := by decide

theorem test_evrst : seen cell0 (exec (.evrst 0) (withCell0 (cell 3 5 false))) = some (5, 5, false, 0) := by decide

theorem test_evcan : seen cell0 (exec (.evcan 0) (withCell0 (cell 3 5 true))) = some (3, 5, false, 0) := by decide

theorem test_evtick : seen cell0 (exec (.evtick 0) (withCell0 (cell 3 5 true))) = some (2, 5, true, 0) ∧
    seen cell0 (exec (.evtick 0) (withCell0 (cell 0 5 true))) = some (0, 5, true, 0) := by decide

theorem test_evrdy : seen cell0 (exec (.evrdy 0) (withCell0 (cell 0 5 true))) = some (0, 5, false, 1) ∧
    seen cell0 (exec (.evrdy 0) (withCell0 (cell 3 5 true))) = some (3, 5, true, 0) := by decide

theorem test_evzero : seen cell0 (exec (.evzero 0) (withCell0 (cell 0 5 false))) = some (0, 5, false, 1) ∧
    seen cell0 (exec (.evzero 0) (withCell0 (cell 3 5 true))) = some (3, 5, true, 0) := by decide

/-! ### The tick path: section 2.7 -/

/-- K3 and K5. -/
theorem test_tken_tkdis : seen (fun s => s.block.flags) (exec .tken State.reset) = some 0b000001 ∧
    seen (fun s => s.block.flags) (exec .tkdis { State.reset with block := State.reset.block.tken }) = some 0 := by decide

/-- K1 and K2: two arrivals while disabled leave one tick pending and no dispatch enabled. -/
theorem test_arrivals_coalesce : State.reset.block.tickArrival.tickArrival.flags = 0b000010 ∧
    State.reset.block.tickArrival.tickArrival.dispatchEnabled = false := by decide

/-- K7: an armed cell above zero loses one tick, a disarmed one none; `TICK_PEND` is cleared. -/
theorem test_dispatch : (({ Block.reset mhz1 with
      cells := ((Block.reset mhz1).cells.set 0 (cell 2 2 true) (by decide)).set 2 (cell 0 4 false) (by decide),
      tickPend := true, tickEn := true } : Block mhz1).dispatcherTurn) =
    { Block.reset mhz1 with
      cells := ((Block.reset mhz1).cells.set 0 (cell 1 2 true) (by decide)).set 2 (cell 0 4 false) (by decide),
      tickPend := false, tickEn := true } := by decide

/-! ### The bus: section 2.9 -/

/-- B4 and B5: `CMD` reads 0 and a write to a read-only register is ignored. -/
theorem test_bus : (Block.reset mhz1).memRead .cmd = (0 : BitVec 16) ∧
    (Block.reset mhz1).store .status (7 : BitVec 4) = Block.reset mhz1 := by decide

/-- K10: an illegal word reports 15 and leaves `FLAGS`. -/
theorem test_illegal_word : seen (fun s => (s.block.status, s.block.result, s.block.flags))
      (command 0xC001 { State.reset with block := State.reset.block.tken.tickArrival }) = some (15, 0, 0b000011) := by decide

/-- R83's table: `LDT PER, 0.001` is `WR PER, 0x418938`; a negative time rounds down. -/
theorem test_timePattern : timePattern 1 3 = 0x418938 ∧ timePattern (-1) 3 = -0x418938 ∧ timePattern 10 1 = 0x100000000 := by decide

/-! ### Witnesses: for each obligation with hypotheses, operands and states that meet all of them together, at the ends of
their ranges, in the default build at 1 MHz. -/

/-- The reset state at 1 MHz. -/
abbrev fresh : State := State.resetOf mhz1

/-- The reset state at 1 MHz with operand registers written. -/
abbrev loaded (ont per : TimeWord) (duty : DutyWord) : State := loadedOf mhz1 ont per duty

/-- The reset state at 1 MHz with the two tick bits set as given, and turns scheduled. -/
abbrev ticking (pend en : Bool) (turns : List (Turn mhz1)) : State :=
  { fresh with schedule := turns, block := { fresh.block with tickPend := pend, tickEn := en } }

theorem witness_DecodeOfEncodeIsTheCommand : Instr.wellFormed 8 (.evrdy 7) = true ∧ Instr.wellFormed 256 (.evrdy 255) = true ∧
    Instr.wellFormed 1 (.evrdy 0) = true ∧ Instr.wellFormed 8 (.pwms .outside true true) = true := by decide

theorem witness_EncodeOfDecodeIsTheWord : decode 8 0xB007#16 = .ok (.evzero 7) ∧ decode 256 0xB0FF#16 = .ok (.evzero 255) ∧
    decode 8 0x100F#16 = .ok (.pwms .outside true true) := by decide

/-- One word for each of the six conditions of R77, and the last legal words beside them. -/
theorem witness_IllegalWordsReportIllegalCommand : IllegalWord mhz1.nEvents 0x1100#16 ∧
    IllegalWord mhz1.nEvents 0xE000#16 ∧ IllegalWord mhz1.nEvents 0x1010#16 ∧
    IllegalWord mhz1.nEvents 0x3002#16 ∧ IllegalWord mhz1.nEvents 0x4008#16 ∧
    IllegalWord mhz1.nEvents 0xD001#16 ∧ ¬IllegalWord mhz1.nEvents 0x100F#16 ∧
    ¬IllegalWord mhz1.nEvents 0x3001#16 ∧ ¬IllegalWord mhz1.nEvents 0x4007#16 ∧
    ¬IllegalWord mhz1.nEvents 0xD000#16 := by
  unfold IllegalWord; dsimp only; and_intros <;> decide

theorem witness_StepRunsTheDecodedCommand : decode mhz1.nEvents 0xA007#16 = .ok (.evrdy 7) ∧
    Instr.wellFormed mhz1.nEvents (.evrdy 7) = true ∧ decode mhz1.nEvents 0xD000#16 = .ok .tkdis := by decide

theorem witness_CyclesTruncatesTheExactProduct : 0 ≤ 0 ∧ 4294967 ≤ 4294968 := by decide

theorem witness_RoundedUpTimesConvertExactly : 0 < 1 ∧ 1 < 2 ^ 32 ∧ 0 < 2 ^ 32 - 1 ∧ 2 ^ 32 - 1 < 2 ^ 32 := by decide

/-- Found at the first index, at the last, and not at all; and the empty table. -/
theorem witness_PrescalerSearchFindsTheSmallestFit : (∀ r ∈ [8, 8, 4, 4], 2 ≤ r) ∧
    selectPrescaler 65535 65535 65535 [8, 8, 4, 4] = some ⟨1, 65535, 65535⟩ ∧
    selectPrescaler 67108863 5 65535 [8, 8, 4, 4] = some ⟨5, 65535, 0⟩ ∧
    selectPrescaler 67108864 5 65535 [8, 8, 4, 4] = none ∧ selectPrescaler 256 0 255 [] = none := by decide

theorem witness_CeilingGuaranteesTheSearch : (∀ r ∈ [8, 8, 4, 4], 2 ≤ r) ∧ 67107840 ≤ ceiling 65535 [8, 8, 4, 4] := by decide

/-- R110's worked example. -/
theorem witness_PwmValuesFitTheirRegisters : pwmPlan mhz1 0x80000000 0x100000000 .a = .ok ⟨3, 7812, 3906⟩ ∧
    pwmPlan mhz1 0 0 .neither = .ok ⟨1, 0, 0⟩ := by decide

theorem witness_PwmCoreCommitsNumbersAndRouting : (0 : Int) ≤ 0x431B9B66FA ∧ (0x431B9B66FA : Int) ≤ 0x431B9B66FA ∧
    cycles mhz1.fClk (0x431B9B66FA : Int).toNat ≤ 65535 * mhz1.ratiosPwm.prod ∧ Selector.b ≠ .outside := by decide

theorem witness_PwmsCommitsTheRequest : 0 ≤ (loaded 0 0 0).block.ont.toInt ∧
    (loaded 0 0 0).block.ont.toInt ≤ (loaded 0 0 0).block.per.toInt ∧
    cycles mhz1.fClk (loaded 0 0 0).block.per.toInt.toNat ≤ 65535 * mhz1.ratiosPwm.prod ∧
    0 ≤ (loaded 0x431B9B66FA 0x431B9B66FA 0).block.ont.toInt ∧
    (loaded 0x431B9B66FA 0x431B9B66FA 0).block.ont.toInt ≤ (loaded 0x431B9B66FA 0x431B9B66FA 0).block.per.toInt ∧
    cycles mhz1.fClk (loaded 0x431B9B66FA 0x431B9B66FA 0).block.per.toInt.toNat ≤ 65535 * mhz1.ratiosPwm.prod ∧
    Selector.neither ≠ .outside := by
  and_intros <;> decide

theorem witness_PwmdCommitsTheDutyCycle : 0 ≤ (loaded 0 0 100).block.per.toInt ∧ 0 ≤ (loaded 0 0 0).block.duty.toInt ∧
    (loaded 0 0 100).block.duty.toInt ≤ 100 ∧ 0 ≤ (loaded 0 0 100).block.duty.toInt ∧
    cycles mhz1.fClk (loaded 0 0 100).block.per.toInt.toNat ≤ 65535 * mhz1.ratiosPwm.prod ∧ Selector.a ≠ .outside := by decide

/-- Both where the command succeeds and where it fails, on its channel. -/
theorem witness_DutyModeEqualsTheCoreEntryPoint : 0 ≤ (loaded 9 0 50).block.per.toInt ∧ 0 ≤ (loaded 9 0 50).block.duty.toInt ∧
    (loaded 9 0 50).block.duty.toInt ≤ 100 ∧
    (∃ t, exec (.pwms .a true true) (loaded 0 0 50) = .next t ∧ t.block.status = 0) ∧
    (∃ t, exec (.pwms .outside true true) (loaded 0 0 50) = .next t ∧ t.block.status = 4) := by
  and_intros <;> first | decide | exact ⟨_, rfl, by decide⟩

theorem witness_CtcsCommitsThePeriod : 0 ≤ (loaded 0 0 0).block.per.toInt ∧
    cycles mhz1.fClk (loaded 0 0 0).block.per.toInt.toNat ≤ 255 * mhz1.ratiosCtc.prod := by decide

/-- Each timer command with a code other than 0, on operands where the tests meet; 0x431B9B77C1 is a cycle above PWM16's ceiling
and 0x42D8D36C above CTC8's. -/
theorem witness_TimerCommandsReportTheFirstFailedTest :
    seen pwmRow (exec (.pwms .outside true true) (loaded (-1) 0 0)) = some (1, 0, 0, 0, 0, 0) ∧
    seen pwmRow (exec (.pwms .outside true true) (loaded 1 0 0)) = some (2, 0, 0, 0, 0, 0) ∧
    seen pwmRow (exec (.pwms .outside true true) (loaded 0 0x431B9B77C1 0)) = some (3, 0, 0, 0, 0, 0) ∧
    seen pwmRow (exec (.pwms .outside true true) (loaded 0 0x431B9B66FA 0)) = some (4, 0, 0, 0, 0, 0) ∧
    seen pwmRow (exec (.pwmd .outside true true) (loaded 1 0 101)) = some (5, 0, 0, 0, 0, 0) ∧
    seen pwmRow (exec (.pwmd .outside true true) (loaded 1 0 100)) = some (4, 0, 0, 0, 0, 0) ∧
    seen ctcRow (exec (.ctcs true) (loaded 0 (-1) 0)) = some (1, 0, 0, 0) ∧
    seen ctcRow (exec (.ctcs true) (loaded 0 0x42D8D36C 0)) = some (3, 0, 0, 0) := by and_intros <;> decide

theorem witness_RepeatedConfigurationChangesNothing : isTimerCommand (.pwms .a true false) = true ∧
    exec (.pwms .a true false) fresh = .next { fresh with block := fresh.block.pwms .a true false } := ⟨rfl, rfl⟩

/-- Two states that agree on the operands a command reads, and on nothing else that can differ. -/
theorem witness_ConfigurationDependsOnOperandsAlone :
    (loaded 0 0 7).block.per = (withCell0 (cell 3 5 true)).block.per ∧
    (loaded 0 0 7).block.ont = (withCell0 (cell 3 5 true)).block.ont ∧
    (loaded 9 0 0).block.duty = (withCell0 (cell 3 5 true)).block.duty ∧
    (∃ b' c', exec (.pwms .a true true) (loaded 0 0 7) = .next { loaded 0 0 7 with block := b' } ∧
      exec (.pwms .a true true) { loaded 0 0 7 with block := (withCell0 (cell 3 5 true)).block, schedule := [.tickSource] } =
        .next { loaded 0 0 7 with block := c', schedule := [.tickSource] }) ∧
    (∃ b' c', exec (.pwmd .a true true) (loaded 9 0 0) = .next { loaded 9 0 0 with block := b' } ∧
      exec (.pwmd .a true true) { loaded 9 0 0 with block := (withCell0 (cell 3 5 true)).block } =
        .next { loaded 9 0 0 with block := c' }) ∧
    ∃ b' c', exec (.ctcs true) (loaded 0 0 7) = .next { loaded 0 0 7 with block := b' } ∧
      exec (.ctcs true) { loaded 0 0 7 with block := (withCell0 (cell 3 5 true)).block } =
        .next { loaded 0 0 7 with block := c' } := by
  and_intros <;> first | decide | exact ⟨_, _, rfl, rfl⟩

/-- The hypothesis of the eight statements about one event command: the first cell and the last, in three builds. -/
theorem witness_cell_numbers : (0 : BitVec 8).toNat < mhz1.nEvents ∧ (7 : BitVec 8).toNat < mhz1.nEvents ∧
    (15 : BitVec 8).toNat < cells16.nEvents ∧ (7 : BitVec 8).toNat < Config.build.nEvents := by decide

theorem witness_EventCommandsTouchOneCell : Instr.cell? (.evinit 0) = some 0 ∧ Instr.cell? (.evzero 7) = some 7 ∧
    (7 : BitVec 8).toNat < mhz1.nEvents ∧ 6 ≠ (7 : BitVec 8).toNat := by decide

/-- A step, here of EVSTART, and a cell. -/
theorem witness_CountdownsNeverWrap : 7 < mhz1.nEvents ∧
    ({ withCell0 (cell 0 5 false) with schedule := [.host (.write .cmd 0x5000#16)] } : State).StepsTo
      ((withCell0 (cell 0 5 false)).block.evstart 0) := ⟨by decide, _, _, _, rfl⟩

theorem witness_ReadinessIsReportedOnce : (0 : BitVec 8).toNat < mhz1.nEvents ∧
    exec (.evrdy 0) (withCell0 (cell 0 5 true)) =
      .next { withCell0 (cell 0 5 true) with block := (withCell0 (cell 0 5 true)).block.evrdy 0 } ∧
    cellIsReady (cell 0 5 true) = true := ⟨by decide, rfl, by decide⟩

theorem witness_TkdisDisablesDispatch : (ticking true false [.dispatcher]).block.tickEn = false ∧
    (ticking true false [.dispatcher]).StepsTo (ticking true false []).block := ⟨rfl, _, _, _, rfl⟩

theorem witness_DispatchTicksEveryCell : (ticking true true []).block.tickPend = true ∧
    (ticking true true []).block.tickEn = true ∧ 7 < mhz1.nEvents := by decide

theorem witness_DispatcherIdlesUnlessEnabled :
    ¬((ticking true false []).block.tickPend = true ∧ (ticking true false []).block.tickEn = true) ∧
    ¬((ticking false true []).block.tickPend = true ∧ (ticking false true []).block.tickEn = true) := by decide

theorem witness_EveryOrderOfTurnsIsARun : 0 ≤ ([.tickSource, .reset] : List (Turn mhz1)).length ∧
    2 ≤ ([.tickSource, .reset] : List (Turn mhz1)).length := by decide

/-- The last step is the one that refills the schedule. -/
theorem witness_CriticalSectionKeepsTheCells : (ticking true false [.tickSource, .dispatcher]).block.tickEn = false ∧
    (∀ x ∈ (ticking true false [.tickSource, .dispatcher]).schedule, x = .tickSource ∨ x = .dispatcher) ∧
    3 ≤ (ticking true false [.tickSource, .dispatcher]).schedule.length + 1 := by decide

theorem witness_TheTwoHalvesAreIndependent :
    exec (.ctcs true) fresh = .next { fresh with block := fresh.block.ctcs true } ∧
    exec .tken fresh = .next { fresh with block := fresh.block.tken } ∧
    (ticking false true [.tickSource]).StepsTo (ticking true true []).block ∧
    (ticking true true [.dispatcher]).StepsTo (ticking false true []).block ∧
    (ticking true true []).StepsTo (ticking false true []).block ∧
    (ticking true true []).turn? = none := by
  and_intros <;> first | rfl | exact ⟨_, _, _, rfl⟩

/-- A step that is no reset and writes an operand register. -/
theorem witness_OperandRegistersAreHostOwned :
    (ticking false false [.host (.write .duty 50#16)]).StepsTo (loaded 0 0 50).block ∧
    (ticking false false [.host (.write .duty 50#16)]).turn? ≠ some .reset := ⟨⟨_, _, _, rfl⟩, by decide⟩

/-- A step that is no reset, in a state with both pin marks and both flags set. -/
theorem witness_OnlyResetClearsMarksAndInitFlags :
    let b : Block mhz1 := { fresh.block with t1ctl := 0b110000, initPwm := true, initCtc := true }
    ({ fresh with block := b } : State).StepsTo b ∧
    ({ fresh with block := b } : State).turn? ≠ some .reset ∧ t1Ddra b.t1ctl = true ∧ t1Ddrb b.t1ctl = true :=
  ⟨⟨_, _, _, rfl⟩, by decide, by decide, by decide⟩

/-- An illegal word, and a legal one that fails. -/
theorem witness_FailedCommandsWriteStatusAndResultOnly :
    command 0#16 fresh = .next { fresh with block := fresh.block.failedWith 15 } ∧
    command 0x1003#16 fresh = .next { fresh with block := fresh.block.failedWith 4 } ∧
    Instr.wellFormed mhz1.nEvents .tken = true ∧ isTimerCommand .tken = false ∧
    exec .tken fresh = .next { fresh with block := fresh.block.tken } := ⟨rfl, rfl, rfl, rfl, rfl⟩

theorem witness_OnlyTkenAndTkdisMoveTheEnable :
    (ticking false false [.host (.write .cmd 0xC000#16)]).StepsTo (ticking false true []).block ∧
    (ticking false true [.host (.write .cmd 0xD000#16)]).StepsTo (ticking false false []).block ∧
    (ticking false true [.reset]).StepsTo (ticking false false []).block :=
  ⟨⟨_, _, _, rfl⟩, ⟨_, _, _, rfl⟩, ⟨_, _, _, rfl⟩⟩

theorem witness_OnlyDispatchAndResetClearThePendingTick :
    (ticking false true [.tickSource]).StepsTo (ticking true true []).block ∧
    (ticking true true []).StepsTo (ticking false true []).block ∧
    (ticking true false [.reset]).StepsTo (ticking false false []).block :=
  ⟨⟨_, _, _, rfl⟩, ⟨_, _, _, rfl⟩, ⟨_, _, _, rfl⟩⟩

/-- A step and a command, in a build that is not the default one. -/
theorem witness_EveryStepKeepsTheBuild :
    step { State.resetOf cells16 with schedule := [.tickSource] } =
      .next { State.resetOf cells16 with block := (Block.reset cells16).tickArrival } ∧
    exec (.evnow 15) (State.resetOf cells16) = .next { State.resetOf cells16 with block := (Block.reset cells16).evnow 15 } :=
  ⟨rfl, rfl⟩

/-- The first and the last of the registers that ignore a write. -/
theorem witness_BusWritesStoreExecuteOrAreIgnored : 5 ≤ (HostReg.number .status).val ∧ 5 ≤ (HostReg.number .t2ctl).val ∧
    ¬5 ≤ (HostReg.number .cmd).val := by decide

theorem witness_PiecesAreLeastSignificantFirst : 0 < (piecesOf 0b101#3).length ∧ 7 < (piecesOf 0#64).length := by decide

theorem witness_ResetLeavesEveryBitZero : (15 : BitVec 8).toNat < cells16.nEvents ∧
    (∃ t, exec (.pwms .a true true) fresh = .next t ∧ t.block.status = 0) ∧
    (∃ t, exec (.pwmd .a true true) fresh = .next t ∧ t.block.status = 0) ∧
    ∃ t, exec (.ctcs true) fresh = .next t ∧ t.block.status = 0 :=
  ⟨by decide, ⟨_, rfl, by decide⟩, ⟨_, rfl, by decide⟩, ⟨_, rfl, by decide⟩⟩

/-- A configured block with both channels used in turn: the invariant holds, and a step is taken from it. -/
theorem witness_StepKeepsOutputsConsistent :
    let b : Block mhz1 := { fresh.block with
      t1ps := 1, t1top := 32767, t1cmpa := 32767, t1cmpb := 65535, t1ctl := 0b110001, initPwm := true }
    b.OutputsConsistent ∧ step { fresh with block := b, schedule := [.tickSource] } =
      .next { fresh with block := b.tickArrival } := ⟨by decide, rfl⟩

theorem witness_OutputsConsistentAfterAnyRunFromReset :
    runSteps 2 { fresh with schedule := [.host (.write .cmd 0xC000#16), .tickSource] } = .next (ticking true true []) := rfl

theorem witness_EveryBuildKeepsOutputsConsistent : (Block.reset cells16).OutputsConsistent := by decide

/-- The last code below the gap, the code above it, and a step. -/
theorem witness_StepKeepsStatusInUse :
    (fresh.block.failedWith 5).StatusInUse ∧ (fresh.block.failedWith 15).StatusInUse ∧
    step { fresh with block := fresh.block.failedWith 15, schedule := [.dispatcher] } =
      .next { fresh with block := fresh.block.failedWith 15 } := ⟨by decide, by decide, rfl⟩

theorem witness_TimePatternsRoundAwayFromZero : (0 : Int) ≤ 0 ∧ (-1 : Int) < 0 := by decide

end Sys2Proof.Tests
end

section
/-! PROOFS. The family of 20_memory.md: what a bus write does (R52). -/

namespace Sys2Proof.Machine

section
variable (s : State) (rest : List (Turn s.params)) {r : HostReg} (v : BitVec (r.width s.params))

/-- A host write to any register but `CMD` stores, and is no more than that (R52). -/
theorem step_write_of_ne_cmd (h : r ≠ .cmd) :
    step { s with schedule := .host (.write r v) :: rest } =
      .next { s with schedule := rest, block := s.block.store r v } := by
  rw [step_write, busWrite_of_ne { s with schedule := rest } v h]

/-- A host write to a read-only register only takes its turn off the schedule (R52). -/
theorem step_write_of_readOnly (h : 5 ≤ r.number.val) :
    step { s with schedule := .host (.write r v) :: rest } = .next { s with schedule := rest } := by
  have hcmd : r ≠ .cmd := by
    rintro rfl
    exact absurd h (by decide)
  rw [step_write_of_ne_cmd s rest v hcmd, Block.store_of_readOnly s.block v h]

end

/-- Settles O48: the operand registers are stored to, `CMD` is executed, and registers 5 to 15 are read-only. -/
theorem busWritesStoreExecuteOrAreIgnored : Obligations.BusWritesStoreExecuteOrAreIgnored := by
  intro s rest
  refine ⟨?ont, ?per, ?duty, ?cnt, ?cmd, ?readOnly⟩
  case ont => exact fun v => step_write_of_ne_cmd s rest (r := .ont) v (by decide)
  case per => exact fun v => step_write_of_ne_cmd s rest (r := .per) v (by decide)
  case duty => exact fun v => step_write_of_ne_cmd s rest (r := .duty) v (by decide)
  case cnt => exact fun v => step_write_of_ne_cmd s rest (r := .cnt) v (by decide)
  case cmd => exact fun w => step_write s rest .cmd w
  case readOnly => exact fun _ v h => step_write_of_readOnly s rest v h

end Sys2Proof.Machine
end

section
/-! PROOFS. The family of 30_encoding.md: which words are legal, and what the write of an illegal one does (R77, R78, R167). -/

namespace Sys2Proof

/-! ### Which words decode -/

/-- A decoder that is one test answers a command exactly when the test passes. -/
theorem exists_ite_eq_ok_iff {c : Prop} [Decidable c] {i₀ : Instr} {e : DecodeError} :
    (∃ i, (if c then .ok i₀ else .error e) = Except.ok i) ↔ c := by
  split <;> simp [*]

section
variable (n : Nat) (arg : BitVec 8)

/-- Format T takes the arguments below 16 (R77 (c)). -/
theorem exists_decodeT_eq_ok_iff (make : Selector → Bool → Bool → Instr) :
    (∃ i, decodeT make arg = .ok i) ↔ arg.toNat < 16 :=
  exists_ite_eq_ok_iff.trans <| (argT_mustBeZero arg).trans <| by omega

/-- Format C takes the arguments below 2 (R77 (d)). -/
theorem exists_decodeC_eq_ok_iff (make : Bool → Instr) : (∃ i, decodeC make arg = .ok i) ↔ arg.toNat < 2 :=
  exists_ite_eq_ok_iff.trans <| (argC_mustBeZero arg).trans <| by omega

/-- Format E takes the numbers of the cells (R77 (e)). -/
theorem exists_decodeE_eq_ok_iff (make : BitVec 8 → Instr) : (∃ i, decodeE n make arg = .ok i) ↔ arg.toNat < n :=
  exists_ite_eq_ok_iff

/-- Format K takes the argument 0 alone (R77 (f)). -/
theorem exists_decodeK_eq_ok_iff (i₀ : Instr) : (∃ i, decodeK i₀ arg = .ok i) ↔ arg.toNat < 1 :=
  exists_ite_eq_ok_iff.trans <| BitVec.toNat_inj.symm.trans Nat.lt_one_iff.symm

end

/-- How many arguments are legal with an opcode, in a build with `n` cells: the legal ones are those below this number, and
a reserved opcode has none (R76, R77). -/
def legalArgCount (n op : Nat) : Nat :=
  if op = 1 ∨ op = 2 then 16
  else if op = 3 then 2
  else if 4 ≤ op ∧ op ≤ 11 then n
  else if op = 12 ∨ op = 13 then 1
  else 0

/-- The words the decoder accepts, by their fields. -/
theorem exists_decode_eq_ok_iff (n : Nat) (w : CommandWord) :
    (∃ i, decode n w = .ok i) ↔ zField w = 0 ∧ (argField w).toNat < legalArgCount n (opField w).toNat := by
  unfold decode
  split
  case isFalse hz => exact ⟨nofun, fun h => absurd h.1 hz⟩
  case isTrue hz =>
    rw [and_iff_right hz]
    split
    case h_14 =>
      have hnone : legalArgCount n (opField w).toNat = 0 := by grind [legalArgCount]
      simp [hnone]
    all_goals
      rename_i hop
      rw [hop]
    case h_1 | h_2 => exact exists_decodeT_eq_ok_iff _ _
    case h_3 => exact exists_decodeC_eq_ok_iff _ _
    case h_12 | h_13 => exact exists_decodeK_eq_ok_iff _ _
    all_goals exact exists_decodeE_eq_ok_iff n _ _

namespace Machine

/-- The six conditions of R77 by fields: `Z` is not 0, or the argument is not below the number of legal ones. -/
theorem illegalWord_iff (n : Nat) (w : CommandWord) :
    IllegalWord n w ↔ zField w ≠ 0 ∨ legalArgCount n (opField w).toNat ≤ (argField w).toNat := by
  obtain ⟨hop, hz, harg⟩ := fields_toNat w
  have hop_lt := (opField w).isLt
  have hz0 : zField w = 0 ↔ (zField w).toNat = 0 := BitVec.toNat_inj.symm
  rw [IllegalWord, ← hop, ← hz, ← harg, ne_eq (zField w), hz0]
  unfold legalArgCount
  split_ifs <;> omega

/-- The words the decoder accepts are those with none of the conditions of R77. -/
theorem exists_decode_eq_ok_iff_not_illegalWord (n : Nat) (w : CommandWord) :
    (∃ i, decode n w = .ok i) ↔ ¬IllegalWord n w := by
  rw [exists_decode_eq_ok_iff, illegalWord_iff, not_or, not_not, not_le]

/-! ### The write of an illegal word -/

/-- An illegal word executes as the code 15 and `RESULT` 0, nothing else written (R77, R167). -/
theorem command_of_illegalWord (s : State) {w : CommandWord} (h : IllegalWord s.params.nEvents w) :
    command w s = .next { s with block := s.block.failedWith 15 } := by
  rcases command_cases w s with ⟨i, hi, -⟩ | ⟨e, -, hc⟩
  · exact absurd h ((exists_decode_eq_ok_iff_not_illegalWord _ _).mp ⟨i, hi⟩)
  · exact hc

/-! ### The count of legal words -/

/-- The opcode and argument pairs of a build with `n` cells, as the opcode map lists them (R76): with each opcode, its legal
arguments in turn. -/
def legalFields (n : Nat) : List (Σ _ : Nat, Nat) :=
  (List.range 16).sigma fun op => List.range (legalArgCount n op)

/-- The words of those pairs. -/
def legalWords (n : Nat) : List CommandWord :=
  (legalFields n).map fun x => wordOf (.ofNat 4 x.1) (.ofNat 8 x.2)

theorem mem_legalFields {n : Nat} {x : Σ _ : Nat, Nat} : x ∈ legalFields n ↔ x.1 < 16 ∧ x.2 < legalArgCount n x.1 := by
  rw [legalFields, List.mem_sigma, List.mem_range, List.mem_range]

theorem legalArgCount_le {n : Nat} (hn : n ≤ 256) (op : Nat) : legalArgCount n op ≤ 256 := by
  unfold legalArgCount
  split_ifs <;> omega

/-- The fields of a legal pair's word, as numbers, are the pair. -/
theorem toNat_fields_of_mem_legalFields {n : Nat} (hn : n ≤ 256) {x : Σ _ : Nat, Nat} (hx : x ∈ legalFields n) :
    (BitVec.ofNat 4 x.1).toNat = x.1 ∧ (BitVec.ofNat 8 x.2).toNat = x.2 := by
  obtain ⟨hop, harg⟩ := mem_legalFields.mp hx
  have := legalArgCount_le hn x.1
  simp only [BitVec.toNat_ofNat]
  omega

/-- No word is listed twice: its fields give back the pair it is made of. -/
theorem nodup_legalWords {n : Nat} (hn : n ≤ 256) : (legalWords n).Nodup := by
  refine .map_on ?_ (List.nodup_range.sigma fun _ => List.nodup_range)
  intro x hx y hy hxy
  obtain ⟨hxop, hxarg⟩ := toNat_fields_of_mem_legalFields hn hx
  obtain ⟨hyop, hyarg⟩ := toNat_fields_of_mem_legalFields hn hy
  have hop := congrArg opField hxy
  have harg := congrArg argField hxy
  simp only [Laws.Layout.fields_of_wordOf] at hop harg
  refine Sigma.ext ?_ (heq_of_eq ?_)
  · rw [← hxop, hop, hyop]
  · rw [← hxarg, harg, hyarg]

/-- Sixteen words each for PWMS and PWMD, two for CTCS, one for each cell with each of the eight event commands, and two for
TKEN and TKDIS (R77). -/
theorem length_legalWords (n : Nat) : (legalWords n).length = 16 + 16 + 2 + 8 * n + 2 := by
  simp [legalWords, legalFields, List.range_succ, legalArgCount]
  omega

theorem mem_legalWords_iff {n : Nat} (hn : n ≤ 256) (w : CommandWord) : w ∈ legalWords n ↔ ¬IllegalWord n w := by
  rw [illegalWord_iff, not_or, not_not, not_le, legalWords, List.mem_map]
  constructor
  · rintro ⟨x, hx, rfl⟩
    obtain ⟨hop, hz, harg⟩ := Laws.Layout.fields_of_wordOf (.ofNat 4 x.1) (.ofNat 8 x.2)
    obtain ⟨hxop, hxarg⟩ := toNat_fields_of_mem_legalFields hn hx
    rw [hop, harg, hxop, hxarg]
    exact ⟨hz, (mem_legalFields.mp hx).2⟩
  · rintro ⟨hz, harg⟩
    refine ⟨⟨(opField w).toNat, (argField w).toNat⟩, mem_legalFields.mpr ⟨(opField w).isLt, harg⟩, ?_⟩
    rw [BitVec.ofNat_toNat, BitVec.ofNat_toNat, BitVec.setWidth_eq, BitVec.setWidth_eq, wordOf_fields w hz]

/-- Settles O3: the decoder format by format against R77, the failure of an illegal word, and the legal words listed. -/
theorem illegalWordsReportIllegalCommand : Obligations.IllegalWordsReportIllegalCommand := by
  refine ⟨exists_decode_eq_ok_iff_not_illegalWord, ?write, fun _ => .inr (.inl (.inl rfl)),
    legalWords 8, nodup_legalWords (by decide), length_legalWords 8, mem_legalWords_iff (by decide)⟩
  case write =>
    intro s rest w h
    rw [step_write, busWrite_cmd]
    exact command_of_illegalWord { s with schedule := rest } h

end Machine

end Sys2Proof
end

section
/-! PROOFS. The family of 40_timer_engine.md: the converter (R100), what the prescaler search returns and when it succeeds
(R102 to R104), and the commit of `pwm_core` (R107 to R109). -/

namespace Sys2Proof.Machine

/-! ### The converter -/

/-- The model's product is written clock first; R100 writes the time first. -/
theorem cycles_eq_div (fClk tRaw : Nat) : cycles fClk tRaw = tRaw * fClk / 2 ^ 32 := by
  rw [cycles, Nat.mul_comm]

/-- A longer time has at least as many cycles. -/
theorem cycles_mono (fClk : Nat) : Monotone (cycles fClk) := fun _ _ h =>
  Nat.div_le_div_right (Nat.mul_le_mul_left fClk h)

/-- Settles O6: the quotient of R100 between its two bounds, and monotone in the time. -/
theorem cyclesTruncatesTheExactProduct : Obligations.CyclesTruncatesTheExactProduct := by
  intro fClk a b
  refine ⟨cycles_eq_div fClk a, ?lower, ?upper, fun h => cycles_mono fClk h⟩
  all_goals rw [cycles_eq_div]
  case lower => exact Nat.div_mul_le_self _ _
  case upper => exact Nat.lt_mul_of_div_lt (Nat.lt_succ_self _) (by decide)

/-! ### The search -/

/-- What the search returns: it has stepped over `k` ratios, and divided both values by their product (R102, R103). -/
theorem searchFrom_eq_some {M : Nat} {R : List Nat} {idx sp so : Nat} {x : Scaled} (h : searchFrom M R idx sp so = some x) :
    ∃ k ≤ R.length, x = ⟨idx + k, sp / (R.take k).prod, so / (R.take k).prod⟩ ∧ sp / (R.take k).prod ≤ M := by
  induction R generalizing idx sp so with
  | nil =>
    rcases Nat.lt_or_ge M sp with hlt | hle
    · simp [searchFrom_nil_of_lt idx so hlt] at h
    · exact ⟨0, le_rfl, by simpa [searchFrom_of_le [] idx so hle] using h.symm, by simpa using hle⟩
  | cons r rs ih =>
    rcases Nat.lt_or_ge M sp with hlt | hle
    · rw [searchFrom_cons_of_lt r rs idx so hlt] at h
      obtain ⟨k, hk, hx, hM⟩ := ih h
      refine ⟨k + 1, Nat.succ_le_succ hk, ?_⟩
      rw [List.take_succ_cons, List.prod_cons, ← Nat.div_div_eq_div_mul, ← Nat.div_div_eq_div_mul,
        ← Nat.succ_add_eq_add_succ]
      exact ⟨hx, hM⟩
    · exact ⟨0, Nat.zero_le _, by simpa [searchFrom_of_le (r :: rs) idx so hle] using h.symm, by simpa using hle⟩

/-- The search succeeds when the period fits after division by every ratio (R102). -/
theorem exists_searchFrom_eq_some {M : Nat} {R : List Nat} (idx : Nat) {sp : Nat} (so : Nat) (h : sp / R.prod ≤ M) :
    ∃ x, searchFrom M R idx sp so = some x := by
  induction R generalizing idx sp so with
  | nil => exact ⟨_, searchFrom_of_le [] idx so (by simpa using h)⟩
  | cons r rs ih =>
    rcases Nat.lt_or_ge M sp with hlt | hle
    · rw [searchFrom_cons_of_lt r rs idx so hlt]
      exact ih _ _ (by rwa [Nat.div_div_eq_div_mul, ← List.prod_cons])
    · exact ⟨_, searchFrom_of_le _ idx so hle⟩

/-- A period within the ceiling never fails the search (R104). -/
theorem exists_selectPrescaler_eq_some {P M : Nat} {R : List Nat} (O : Nat) (h : P ≤ ceiling M R) :
    ∃ x, selectPrescaler P O M R = some x :=
  exists_searchFrom_eq_some 1 O (Nat.div_le_of_le_mul (by rwa [Nat.mul_comm]))

/-- The ranges of what the search returns (R103 (b), (d) and (f)). -/
theorem selectPrescaler_bounds {P O M : Nat} {R : List Nat} {x : Scaled} (h : selectPrescaler P O M R = some x)
    (hOP : O ≤ P) : 1 ≤ x.idx ∧ x.idx ≤ R.length + 1 ∧ x.period ≤ M ∧ x.onTime ≤ x.period := by
  obtain ⟨k, hk, rfl, hM⟩ := searchFrom_eq_some h
  exact ⟨Nat.le_add_right 1 k, (Nat.add_comm 1 k).trans_le (Nat.succ_le_succ hk), hM, Nat.div_le_div_right hOP⟩

/-! ### The commit of `pwm_core` -/

/-- Where every test of `pwm_core` passes, the search gives its values (R106, R107). -/
theorem exists_pwmPlan_eq_ok {p : Params} {onRaw perRaw : Int} {ch : Selector} (hon : 0 ≤ onRaw) (hper : onRaw ≤ perRaw)
    (hceil : cycles p.fClk perRaw.toNat ≤ p.ceilPwm) (hch : ch ≠ .outside) :
    ∃ plan, pwmPlan p onRaw perRaw ch = .ok plan := by
  obtain ⟨x, hx⟩ := exists_selectPrescaler_eq_some (cycles p.fClk onRaw.toNat) hceil
  have hneg : ¬(onRaw < 0 ∨ perRaw < 0) := by omega
  refine ⟨⟨x.idx, x.period >>> 1, x.onTime >>> 1⟩, ?_⟩
  rw [pwmPlan, if_neg hneg, if_neg hper.not_gt, if_neg hceil.not_gt, hx]
  exact if_neg hch

/-- The commit of a plan is the commit of R107 to R109 for the times the plan was made of. -/
theorem Block.isPwmCommit_commitPwm {p : Params} (b : Block p) {onRaw perRaw : Int} {ch : Selector} {plan : PwmPlan}
    (iea ieb : Bool) (h : pwmPlan p onRaw perRaw ch = .ok plan) :
    b.IsPwmCommit ((b.commitPwm plan ch iea ieb).done false) onRaw.toNat perRaw.toNat ch iea ieb := by
  obtain ⟨-, -, hper, -, -, x, hx, rfl⟩ := pwmPlan_ok h
  obtain ⟨hidx, hidx_le, hperiod, honTime⟩ := selectPrescaler_bounds hx (cycles_mono p.fClk (Int.toNat_le_toNat hper))
  refine ⟨x, _, hx, hidx, hidx_le, hperiod, honTime,
    t1Cona_pack .., t1Conb_pack .., t1Iea_pack .., t1Ieb_pack .., ?ddra, ?ddrb, rfl⟩
  case ddra => exact (t1Ddra_pack ..).trans (Bool.or_comm ..)
  case ddrb => exact (t1Ddrb_pack ..).trans (Bool.or_comm ..)

/-- Settles O11: with every test passed there is a plan, and `pwm_core` commits it. -/
theorem pwmCoreCommitsNumbersAndRouting : Obligations.PwmCoreCommitsNumbersAndRouting := by
  intro p b onRaw perRaw ch iea ieb hon hper hceil hch
  obtain ⟨plan, hplan⟩ := exists_pwmPlan_eq_ok hon hper hceil hch
  have hcore : b.pwmCore onRaw perRaw ch iea ieb = (b.commitPwm plan ch iea ieb).done false := by rw [Block.pwmCore, hplan]
  rw [hcore]
  exact b.isPwmCommit_commitPwm iea ieb hplan

end Sys2Proof.Machine
end

section
/-! PROOFS. The family of 41_countdown_events.md: the eight event commands (R130 to R138), each one effect on one cell. -/

namespace Sys2Proof

/-- The word of any opcode and argument as a sum, the form in which the statements give the words of R76. -/
theorem wordOf_eq_add (op : BitVec 4) (arg : BitVec 8) :
    wordOf op arg = BitVec.ofNat 16 (op.toNat * 4096) + arg.setWidth 16 := by
  rw [wordOf, BitVec.ofNat_add, BitVec.ofNat_toNat]

namespace Machine

/-! ### The effect of a command on its cell -/

/-- What an event command does to the cell it names, and the boolean it returns, with `count` in `CNT` (R131 to R138). A
command with no cell has no effect on one. -/
def cellEffect {w : Nat} (count : BitVec w) (i : Instr) (c : Cell w) : Cell w × Bool :=
  match i with
  | .evinit _ => (initCell count c, false)
  | .evstart _ => (startCell c, false)
  | .evnow _ => (startNowCell c, false)
  | .evrst _ => (reloadCell c, false)
  | .evcan _ => (cancelCell c, false)
  | .evtick _ => (tickCell c, false)
  | .evrdy _ => (consumeCell c, cellIsReady c)
  | .evzero _ => (c, cellIsZero c)
  | _ => (c, false)

section
variable {i : Instr} {idx : BitVec 8}

/-- `CNT` matters to the effect of EVINIT alone (R130). -/
theorem cellEffect_congr {w : Nat} {m n : BitVec w} (hi : i.cell? = some idx) (h : i = .evinit idx → m = n) :
    cellEffect m i = cellEffect n i := by
  cases i
  case evinit =>
    cases hi
    rw [h rfl]
  all_goals rfl

/-- Executing an event command is its effect on the cell it names (R130). -/
theorem exec_eq_onCell (s : State) (hi : i.cell? = some idx) :
    exec i s = .next { s with block := s.block.onCell idx (cellEffect s.block.cnt i) } := by
  cases i <;> cases hi
  all_goals rfl

/-- The next state of an event command on a cell that exists: its effect on that cell, `STATUS` 0, and the boolean in
`RESULT` (R130). -/
theorem exec_of_cell (s : State) (hi : i.cell? = some idx) (h : idx.toNat < s.params.nEvents) :
    exec i s = .next { s with block := { s.block with
      cells := s.block.cells.set idx.toNat (cellEffect s.block.cnt i s.block.cells[idx.toNat]).1
      status := 0
      result := BitVec.ofBool (cellEffect s.block.cnt i s.block.cells[idx.toNat]).2 } } := by
  rw [exec_eq_onCell s hi, Block.onCell_of_lt _ _ h]

end

/-- Settles O27: the next state of `exec_of_cell` differs in one cell, `STATUS` and `RESULT`, and only EVINIT's effect
depends on an operand. -/
theorem eventCommandsTouchOneCell : Obligations.EventCommandsTouchOneCell := by
  intro i idx s hi h
  refine ⟨_, exec_of_cell s hi h, rfl, ?otherCells, rfl, ?operands⟩
  case otherCells => exact fun j hj hne => Vector.getElem_set_ne h hj hne.symm
  case operands =>
    intro ont per duty cnt hcnt
    rw [← cellEffect_congr hi hcnt]
    exact exec_of_cell { s with block := { s.block with ont := ont, per := per, duty := duty, cnt := cnt } } hi h

/-! ### The commands that write the cell whatever it holds -/

/-- Settles O19: the effect of EVINIT. -/
theorem evinitSetsTheReloadAndDisarms : Obligations.EvinitSetsTheReloadAndDisarms :=
  fun s idx h => ⟨wordOf_eq_add 0x4 idx, exec_of_cell s (i := .evinit idx) rfl h⟩

/-- Settles O20: the effect of EVSTART. -/
theorem evstartLoadsAndArms : Obligations.EvstartLoadsAndArms :=
  fun s idx h => ⟨wordOf_eq_add 0x5 idx, exec_of_cell s (i := .evstart idx) rfl h⟩

/-- Settles O21: the effect of EVNOW. -/
theorem evnowArmsAtZero : Obligations.EvnowArmsAtZero :=
  fun s idx h => ⟨wordOf_eq_add 0x6 idx, exec_of_cell s (i := .evnow idx) rfl h⟩

/-- Settles O22: the effect of EVRST. -/
theorem evrstReloadsTheCountdown : Obligations.EvrstReloadsTheCountdown :=
  fun s idx h => ⟨wordOf_eq_add 0x7 idx, exec_of_cell s (i := .evrst idx) rfl h⟩

/-! ### The commands that test the cell -/

section
variable {w : Nat} (c : Cell w)

/-- The decrement of R136 as a number: it cannot pass zero. -/
theorem tickCell_of_counting (h : c.planned = true ∧ 0 < c.countdown.toNat) :
    tickCell c = { c with countdown := BitVec.ofNat w (c.countdown.toNat - 1) } := by
  obtain ⟨hp, hpos⟩ := h
  have hcount : (tickCell c).countdown.toNat = c.countdown.toNat - 1 := by rw [tickCell_countdown_toNat, if_pos hp]
  rw [← hcount, BitVec.ofNat_toNat, BitVec.setWidth_eq]
  rcases tickCell_cases c with ⟨-, -, e⟩ | ⟨-, e⟩ <;> rw [e]

theorem tickCell_of_not_counting (h : ¬(c.planned = true ∧ 0 < c.countdown.toNat)) : tickCell c = c := by
  rcases tickCell_cases c with ⟨hp, hc, -⟩ | ⟨-, e⟩
  · exact absurd ⟨hp, Nat.pos_of_ne_zero fun h0 => hc (BitVec.eq_of_toNat_eq h0)⟩ h
  · exact e

end

/-- Settles O24: a tick takes 1 from an armed cell above zero, and writes any other cell back as it was. -/
theorem evtickDecrementsAnArmedCell : Obligations.EvtickDecrementsAnArmedCell := by
  refine fun s idx h => ⟨wordOf_eq_add 0x9 idx, ?_⟩
  rw [exec_of_cell s (i := .evtick idx) rfl h]
  dsimp only [cellEffect]
  split
  case isTrue hcount => rw [tickCell_of_counting _ hcount]; rfl
  case isFalse hcount => rw [tickCell_of_not_counting _ hcount, Vector.set_getElem_self]; rfl

/-- Settles O25: a ready cell is disarmed and reported, and any other is written back as it was. -/
theorem evrdyConsumesReadiness : Obligations.EvrdyConsumesReadiness := by
  refine fun s idx h => ⟨wordOf_eq_add 0xA idx, ?_⟩
  rw [exec_of_cell s (i := .evrdy idx) rfl h]
  dsimp only [cellEffect]
  split
  case isTrue hready =>
    rw [← cellIsReady_iff] at hready
    rw [consumeCell_of_ready _ hready, hready]
    rfl
  case isFalse hready =>
    rw [← cellIsReady_eq_false_iff] at hready
    rw [consumeCell_of_not_ready _ hready, hready, Vector.set_getElem_self]
    rfl

/-- Settles O26: the cell is written back as it was, and the test of its countdown is the result. -/
theorem evzeroTestsTheCountdown : Obligations.EvzeroTestsTheCountdown := by
  refine fun s idx h => ⟨wordOf_eq_add 0xB idx, ?_⟩
  rw [exec_of_cell s (i := .evzero idx) rfl h]
  dsimp only [cellEffect]
  rw [Vector.set_getElem_self, cellIsZero]
  split
  case isTrue hzero => rw [hzero, beq_self_eq_true]; rfl
  case isFalse hzero => rw [beq_false_of_ne hzero]; rfl

end Machine

end Sys2Proof
end

section
/-! PROOFS. The family of 42_tick_dispatch.md: tick arrivals, the dispatch, and what moves the dispatch enable (R150 to
R154). -/

namespace Sys2Proof

/-! ### The word a command was decoded from -/

section
variable {i : Instr} {arg : BitVec 8}

/-- What a decoder that is one test answers, when it answers a command. -/
theorem ite_eq_ok_iff {c : Prop} [Decidable c] {i₀ : Instr} {e : DecodeError} :
    (if c then .ok i₀ else .error e) = Except.ok i ↔ c ∧ i = i₀ := by
  split <;> simp [*, eq_comm (a := i)]

/-- What format T decodes keeps the argument (R72). -/
theorem decodeT_eq_ok {make : Selector → Bool → Bool → Instr} (h : decodeT make arg = .ok i) :
    ∃ ch iea ieb, i = make ch iea ieb ∧ argT ch iea ieb = arg := by
  obtain ⟨hz, rfl⟩ := ite_eq_ok_iff.mp h
  exact ⟨_, _, _, rfl, argT_of_fields arg hz⟩

/-- What format C decodes keeps the argument (R73). -/
theorem decodeC_eq_ok {make : Bool → Instr} (h : decodeC make arg = .ok i) :
    ∃ ie : Bool, i = make ie ∧ BitVec.ofNat 8 ie.toNat = arg := by
  obtain ⟨hz, rfl⟩ := ite_eq_ok_iff.mp h
  exact ⟨_, rfl, argC_of_fields arg hz⟩

/-- Format E decodes the number of a cell to the command on that cell (R74). -/
theorem decodeE_eq_ok_iff {n : Nat} {make : BitVec 8 → Instr} : decodeE n make arg = .ok i ↔ arg.toNat < n ∧ i = make arg :=
  ite_eq_ok_iff

/-- Format K decodes the argument 0 alone (R75). -/
theorem decodeK_eq_ok_iff {i₀ : Instr} : decodeK i₀ arg = .ok i ↔ arg = 0 ∧ i = i₀ := ite_eq_ok_iff

end

/-- A decoded word holds the command's opcode and argument, and its `Z` is 0 (R71, R76, R77). -/
theorem fields_of_decode {n : Nat} {w : CommandWord} {i : Instr} (h : decode n w = .ok i) :
    zField w = 0 ∧ opField w = i.opcode ∧ argField w = i.arg := by
  unfold decode at h
  split at h
  case isFalse => cases h
  case isTrue hz =>
    refine ⟨hz, ?_⟩
    split at h
    case h_14 => cases h
    all_goals rename_i hop
    case h_1 | h_2 =>
      obtain ⟨ch, iea, ieb, rfl, harg⟩ := decodeT_eq_ok h
      exact ⟨BitVec.eq_of_toNat_eq hop, harg.symm⟩
    case h_3 =>
      obtain ⟨ie, rfl, harg⟩ := decodeC_eq_ok h
      exact ⟨BitVec.eq_of_toNat_eq hop, harg.symm⟩
    case h_12 | h_13 =>
      obtain ⟨harg, rfl⟩ := decodeK_eq_ok_iff.mp h
      exact ⟨BitVec.eq_of_toNat_eq hop, harg⟩
    all_goals
      obtain ⟨-, rfl⟩ := decodeE_eq_ok_iff.mp h
      exact ⟨BitVec.eq_of_toNat_eq hop, rfl⟩

/-- A command has one word: the one it was decoded from is the one it encodes to. -/
theorem encode_of_decode {n : Nat} {w : CommandWord} {i : Instr} (h : decode n w = .ok i) : encode i = w := by
  obtain ⟨hz, hop, harg⟩ := fields_of_decode h
  rw [encode, ← hop, ← harg, wordOf_fields w hz]

namespace Machine

/-! ### What moves the dispatch enable -/

/-- No access to a cell moves the enable. -/
@[simp] theorem Block.onCell_tickEn {p : Params} (b : Block p) (idx : BitVec 8) (f : Cell p.cdw → Cell p.cdw × Bool) :
    (b.onCell idx f).tickEn = b.tickEn := by
  rcases b.onCell_cases idx f with ⟨_, e⟩ | ⟨-, e⟩ <;> rw [e]
  rfl

/-- No store moves the enable. -/
@[simp] theorem Block.store_tickEn {p : Params} (b : Block p) (r : HostReg) (v : BitVec (r.width p)) :
    (b.store r v).tickEn = b.tickEn := by cases r <;> rfl

/-- The dispatcher's turn does not move the enable. -/
@[simp] theorem Block.dispatcherTurn_tickEn {p : Params} (b : Block p) : b.dispatcherTurn.tickEn = b.tickEn := by
  rcases b.dispatcherTurn_cases with ⟨-, -, e⟩ | ⟨-, e⟩ <;> rw [e]
  rfl

/-- Of the commands, TKEN alone sets the enable and TKDIS alone clears it (R40). -/
theorem exec_tickEn {i : Instr} {s : State} {b' : Block s.params} (h : exec i s = .next { s with block := b' }) :
    b'.tickEn = s.block.tickEn ∨ (i = .tken ∧ b'.tickEn = true) ∨ (i = .tkdis ∧ b'.tickEn = false) := by
  rcases exec_cases h with ⟨-, ⟨_, _, _, _, _, _, -, rfl⟩ | ⟨_, _, -, rfl⟩ | ⟨_, rfl⟩⟩ | ⟨-, _, _, -, rfl⟩ | ⟨rfl, rfl⟩ |
    ⟨rfl, rfl⟩
  case inr.inl => exact .inl (Block.onCell_tickEn ..)
  case inr.inr.inl => exact .inr (.inl ⟨rfl, rfl⟩)
  case inr.inr.inr => exact .inr (.inr ⟨rfl, rfl⟩)
  all_goals exact .inl rfl

/-- Everything a step can do to the enable, and on which turn (R40). -/
theorem State.StepsTo.tickEn_cases {s : State} {b' : Block s.params} (h : s.StepsTo b') :
    b'.tickEn = s.block.tickEn ∨
    (b'.tickEn = true ∧ s.turn? = some (.host (.write .cmd (encode .tken)))) ∨
    (b'.tickEn = false ∧ (s.turn? = some (.host (.write .cmd (encode .tkdis))) ∨ s.turn? = some .reset)) := by
  rcases h.cases with ⟨-, rfl⟩ | ⟨-, rfl⟩ | ⟨ht, rfl⟩ | ⟨r, -, rfl⟩ | ⟨r, v, -, -, rfl⟩ |
    ⟨w, ht, ⟨i, hi, hexec⟩ | ⟨-, rfl⟩⟩
  · exact .inl (Block.dispatcherTurn_tickEn _)
  · exact .inl rfl
  · exact .inr (.inr ⟨rfl, .inr ht⟩)
  · exact .inl rfl
  · exact .inl (Block.store_tickEn ..)
  · obtain rfl := encode_of_decode hi
    rcases exec_tickEn hexec with hkeep | ⟨rfl, hset⟩ | ⟨rfl, hclear⟩
    · exact .inl hkeep
    · exact .inr (.inl ⟨hset, ht⟩)
    · exact .inr (.inr ⟨hclear, .inl ht⟩)
  · exact .inl rfl

/-! ### When a dispatch is enabled -/

/-- A dispatch needs a pending tick and the enable (R152). -/
theorem Block.dispatchEnabled_iff {p : Params} (b : Block p) :
    b.dispatchEnabled = true ↔ b.tickPend = true ∧ b.tickEn = true := by
  rw [Block.dispatchEnabled, Bool.and_eq_true]

/-- At the dispatcher's turn, a dispatch happens when it is enabled (R152). -/
theorem State.dispatches_of_dispatcher {s : State} (h : s.turn? = some .dispatcher) :
    s.dispatches = s.block.dispatchEnabled := by
  simp [State.dispatches, h]

/-- While the enable is 0 no step is a dispatch (R154). -/
theorem State.dispatches_of_disabled {s : State} (h : s.block.tickEn = false) : s.dispatches = false := by
  simp [State.dispatches, Block.dispatchEnabled, h]

/-- The dispatcher's turn on an enabled dispatch (R152). -/
theorem Block.dispatcherTurn_of_enabled {p : Params} {b : Block p} (h : b.dispatchEnabled = true) :
    b.dispatcherTurn = { b with tickPend := false, cells := tickAll b.cells } := if_pos h

/-! ### The obligations -/

/-- Settles O33: TKDIS is the update of the enable, and a step that moves the enable from 0 is the write of TKEN's word. -/
theorem tkdisDisablesDispatch : Obligations.TkdisDisablesDispatch := by
  refine ⟨rfl, fun _ => rfl, fun s b' hdis hstep => ⟨State.dispatches_of_disabled hdis, ?_⟩⟩
  rcases hstep.tickEn_cases with hkeep | ⟨-, hturn⟩ | ⟨hclear, -⟩
  · exact .inl (hkeep.trans hdis)
  · exact .inr hturn
  · exact .inl hclear

/-- Settles O32: TKEN is the update of the enable. -/
theorem tkenEnablesDispatch : Obligations.TkenEnablesDispatch := ⟨rfl, fun _ => rfl⟩

/-- Settles O34: the tick source's turn is the tick arrival. -/
theorem tickArrivalSetsPendingOnly : Obligations.TickArrivalSetsPendingOnly := step_tickSource

/-- Settles O35: an enabled dispatch is `tickAll` on the cells, and `tickCell` on each. -/
theorem dispatchTicksEveryCell : Obligations.DispatchTicksEveryCell := by
  refine fun s rest => ⟨?enabled, fun hpend hen => ⟨tickAll s.block.cells, ?next, fun j hj => ?cell⟩⟩
  case enabled => rw [State.dispatches_of_dispatcher rfl, Block.dispatchEnabled_iff]
  case next => rw [step_dispatcher, Block.dispatcherTurn_of_enabled ((Block.dispatchEnabled_iff _).mpr ⟨hpend, hen⟩)]
  case cell =>
    rw [tickAll_getElem]
    split
    case isTrue hcount => exact tickCell_of_counting _ hcount
    case isFalse hcount => exact tickCell_of_not_counting _ hcount

end Machine

end Sys2Proof
end

section
/-! PROOFS. The family of 60_exceptions.md: which code a timer command reports (R162 to R166), in which order its tests count
(R169), and what a failed command writes (R168). -/

namespace Sys2Proof.Machine

/-! ### What a timer command reports -/

/-- `b'` is `b` after a timer command that reports `code`: `RESULT` is 0, and with a code other than 0 nothing else is written
(R160, R168). -/
def Block.Reports {p : Params} (b b' : Block p) (code : BitVec 4) : Prop :=
  b'.status = code ∧ b'.result = 0 ∧ (code ≠ 0 → b' = b.failedWith code)

/-- The code a command reports that commits its plan where it has one, and fails with the plan's error where it has none. -/
def planCode {α : Type} : Except Status α → BitVec 4
  | .ok _ => Status.success.code
  | .error st => st.code

section
variable {p : Params} (b : Block p)

/-- A failure reports its code. -/
theorem Block.reports_fail (st : Status) : b.Reports (b.fail st) st.code := ⟨rfl, rfl, fun _ => rfl⟩

/-- Whatever a command has committed, its success reports 0. -/
theorem Block.reports_done (c : Block p) : b.Reports (c.done false) Status.success.code :=
  ⟨rfl, rfl, fun h => absurd rfl h⟩

theorem Block.reports_pwmCore_planCode (onRaw perRaw : Int) (ch : Selector) (iea ieb : Bool) :
    b.Reports (b.pwmCore onRaw perRaw ch iea ieb) (planCode (pwmPlan p onRaw perRaw ch)) := by
  rcases b.pwmCore_cases onRaw perRaw ch iea ieb with ⟨plan, hplan, e⟩ | ⟨st, hplan, e⟩ <;> rw [hplan, e]
  · exact b.reports_done _
  · exact b.reports_fail st

theorem Block.reports_ctcs_planCode (ie : Bool) : b.Reports (b.ctcs ie) (planCode (ctcPlan p b.perRaw)) := by
  rcases b.ctcs_cases ie with ⟨x, hplan, e⟩ | ⟨st, hplan, e⟩ <;> rw [hplan, e]
  · exact b.reports_done _
  · exact b.reports_fail st

end

/-! ### The first test that fails -/

/-- The tests of `pwm_core` in order; the search adds none, as it cannot fail after the ceiling test (R104, R106). -/
theorem planCode_pwmPlan (p : Params) (onRaw perRaw : Int) (ch : Selector) :
    planCode (pwmPlan p onRaw perRaw ch) =
      if onRaw < 0 ∨ perRaw < 0 then 1
      else if onRaw > perRaw then 2
      else if cycles p.fClk perRaw.toNat > p.ceilPwm then 3
      else if ch = .outside then 4
      else 0 := by
  unfold pwmPlan
  split_ifs with hneg hon hceil hch
  · rfl
  · rfl
  · rfl
  all_goals
    obtain ⟨x, hx⟩ := exists_selectPrescaler_eq_some (cycles p.fClk onRaw.toNat) (not_lt.mp hceil)
    rw [hx]
    rfl

/-- The two tests of CTCS in order; its search cannot fail either (R104, R113). -/
theorem planCode_ctcPlan (p : Params) (perRaw : Int) :
    planCode (ctcPlan p perRaw) =
      if perRaw < 0 then 1 else if cycles p.fClk perRaw.toNat > p.ceilCtc then 3 else 0 := by
  unfold ctcPlan
  split_ifs with hneg hceil
  · rfl
  · rfl
  · obtain ⟨x, hx⟩ := exists_selectPrescaler_eq_some 0 (not_lt.mp hceil)
    rw [hx]
    rfl

/-- The on-time PWMD forms is in range for `pwm_core` (R111). -/
theorem dutyOnTime_bounds {perRaw duty : Int} (hper : 0 ≤ perRaw) (hduty : 0 ≤ duty) (hduty_le : duty ≤ 100) :
    0 ≤ perRaw * duty / 100 ∧ perRaw * duty / 100 ≤ perRaw :=
  ⟨Int.ediv_nonneg (mul_nonneg hper hduty) (by decide),
    Int.ediv_le_of_le_mul (by decide) (mul_le_mul_of_nonneg_left hduty_le hper)⟩

section
variable {p : Params} (b : Block p)

/-- PWMS is `pwm_core` on its operands, and has its tests (R110). -/
theorem Block.reports_pwms (ch : Selector) (iea ieb : Bool) :
    b.Reports (b.pwms ch iea ieb)
      (if b.onRaw < 0 ∨ b.perRaw < 0 then 1
      else if b.onRaw > b.perRaw then 2
      else if cycles p.fClk b.perRaw.toNat > p.ceilPwm then 3
      else if ch = .outside then 4
      else 0) := by
  rw [← planCode_pwmPlan]
  exact b.reports_pwmCore_planCode b.onRaw b.perRaw ch iea ieb

/-- PWMD has two tests of its own; after them the first two of `pwm_core` pass (R111). -/
theorem Block.reports_pwmd (ch : Selector) (iea ieb : Bool) :
    b.Reports (b.pwmd ch iea ieb)
      (if b.perRaw < 0 then 1
      else if b.dutyPercent < 0 ∨ b.dutyPercent > 100 then 5
      else if cycles p.fClk b.perRaw.toNat > p.ceilPwm then 3
      else if ch = .outside then 4
      else 0) := by
  rcases b.pwmd_cases ch iea ieb with ⟨hper, e⟩ | ⟨hper, hduty, e⟩ | ⟨hper, hduty, hduty_le, e⟩ <;> rw [e]
  · rw [if_pos hper]
    exact b.reports_fail .invalidTime
  · rw [if_neg hper.not_gt, if_pos hduty]
    exact b.reports_fail .invalidDutyCycle
  · obtain ⟨hon, hon_le⟩ := dutyOnTime_bounds hper hduty hduty_le
    have hcore := b.reports_pwmCore_planCode (b.perRaw * b.dutyPercent / 100) b.perRaw ch iea ieb
    rw [planCode_pwmPlan, if_neg (not_or.mpr ⟨hon.not_gt, hper.not_gt⟩), if_neg hon_le.not_gt] at hcore
    rwa [if_neg hper.not_gt, if_neg (not_or.mpr ⟨hduty.not_gt, hduty_le.not_gt⟩)]

/-- CTCS has the tests of its plan (R113). -/
theorem Block.reports_ctcs (ie : Bool) :
    b.Reports (b.ctcs ie)
      (if b.perRaw < 0 then 1 else if cycles p.fClk b.perRaw.toNat > p.ceilCtc then 3 else 0) := by
  rw [← planCode_ctcPlan]
  exact b.reports_ctcs_planCode ie

end

/-- Settles O16: each command leaves the block its own lemma speaks of, and the default ceilings are computed. -/
theorem timerCommandsReportTheFirstFailedTest : Obligations.TimerCommandsReportTheFirstFailedTest := by
  refine ⟨fun s ch iea ieb ie => ⟨?pwms, ?pwmd, ?ctcs⟩, rfl, rfl⟩
  case pwms => exact ⟨_, rfl, s.block.reports_pwms ch iea ieb⟩
  case pwmd => exact ⟨_, rfl, s.block.reports_pwmd ch iea ieb⟩
  case ctcs => exact ⟨_, rfl, s.block.reports_ctcs ie⟩

/-! ### What a failed command writes -/

/-- An access to a cell succeeds, or fails and writes nothing else (R130, assumption log 8). -/
theorem Block.onCell_failed {p : Params} {b : Block p} {idx : BitVec 8} {f : Cell p.cdw → Cell p.cdw × Bool}
    (h : (b.onCell idx f).status ≠ 0) : b.onCell idx f = b.failedWith (b.onCell idx f).status := by
  rcases b.onCell_cases idx f with ⟨_, e⟩ | ⟨-, e⟩ <;> rw [e] at h ⊢
  · exact absurd rfl h
  · rfl

/-- A command that does not report 0 writes nothing but `STATUS` and `RESULT`: those that commit, and TKEN and TKDIS, report
0 (R168). -/
theorem exec_failed {i : Instr} {s : State} {b' : Block s.params} (h : exec i s = .next { s with block := b' })
    (hst : b'.status ≠ 0) : b' = s.block.failedWith b'.status := by
  rcases exec_cases h with ⟨-, ⟨_, _, _, _, _, _, -, rfl⟩ | ⟨_, _, -, rfl⟩ | ⟨st, rfl⟩⟩ | ⟨-, _, _, -, rfl⟩ | ⟨-, rfl⟩ |
    ⟨-, rfl⟩
  case inl.inr.inr => rfl
  case inr.inl => exact Block.onCell_failed hst
  all_goals exact absurd rfl hst

/-- The cell a well-formed command names exists (R74). -/
theorem cell_lt_of_wellFormed {n : Nat} {i : Instr} {idx : BitVec 8} (h : i.wellFormed n = true) (hi : i.cell? = some idx) :
    idx.toNat < n := by
  simpa [Instr.wellFormed, hi] using h

/-- Settles O43: an illegal word fails, a legal one is a command's execution; and an event command on a cell that exists
succeeds. -/
theorem failedCommandsWriteStatusAndResultOnly : Obligations.FailedCommandsWriteStatusAndResultOnly := by
  refine ⟨fun w s b' h hst => ?word, fun i s b' hwf htimer h => ?command⟩
  case word =>
    rcases command_cases w s with ⟨i, -, e⟩ | ⟨_, -, e⟩ <;> rw [e] at h
    · exact exec_failed h hst
    · obtain rfl := (next_inj h).1
      rfl
  case command =>
    rcases exec_cases h with ⟨ht, -⟩ | ⟨-, idx, f, hi, rfl⟩ | ⟨-, rfl⟩ | ⟨-, rfl⟩
    · exact absurd (htimer.symm.trans ht) Bool.false_ne_true
    · rw [Block.onCell_of_lt _ _ (cell_lt_of_wellFormed hwf hi)]
    · rfl
    · rfl

end Sys2Proof.Machine
end


section
/-! PROOFS. The round trips between commands and their words (R70 to R78). -/

namespace Sys2Proof

open Sys2Proof.Laws.Layout

/-! ### Decoding an argument that was packed -/

/-- Format T unpacks what it packed (R72). -/
theorem decodeT_argT (make : Selector → Bool → Bool → Instr) (ch : Selector) (iea ieb : Bool) :
    decodeT make (argT ch iea ieb) = .ok (make ch iea ieb) := by
  obtain ⟨hch, hiea, hieb, hz⟩ := argT_fields ch iea ieb
  rw [decodeT, if_pos hz, hch]
  exact congrArg₂ (fun a b => Except.ok (make ch a b)) hiea hieb

/-- Format C unpacks what it packed (R73). -/
theorem decodeC_ofBool (make : Bool → Instr) (ie : Bool) : decodeC make (BitVec.ofNat 8 ie.toNat) = .ok (make ie) := by
  cases ie <;> rfl

/-! ### The round trips -/

/-- A command is well formed when its argument is one of the legal ones with its opcode: only a cell number can be too large
(R72 to R77). -/
theorem wellFormed_iff_arg_lt (n : Nat) (i : Instr) :
    i.wellFormed n = true ↔ i.arg.toNat < legalArgCount n i.opcode.toNat := by
  cases i
  case pwms ch iea ieb | pwmd ch iea ieb =>
    obtain ⟨-, -, -, hz⟩ := argT_fields ch iea ieb
    have hdiv := (argT_mustBeZero _).mp hz
    exact iff_of_true rfl (show (argT ch iea ieb).toNat < 16 by omega)
  case ctcs ie => exact iff_of_true rfl (show (BitVec.ofNat 8 ie.toNat).toNat < 2 by cases ie <;> decide)
  case tken | tkdis => exact iff_of_true rfl Nat.one_pos
  all_goals exact decide_eq_true_iff

/-- A decoded command is well formed: its word was legal. -/
theorem wellFormed_of_decode {n : Nat} {w : CommandWord} {i : Instr} (h : decode n w = .ok i) : i.wellFormed n = true := by
  obtain ⟨-, hop, harg⟩ := fields_of_decode h
  obtain ⟨-, hlt⟩ := (exists_decode_eq_ok_iff n w).mp ⟨i, h⟩
  rw [wellFormed_iff_arg_lt, ← hop, ← harg]
  exact hlt

/-- The word of a well-formed command decodes to it (R72 to R76). -/
theorem decode_encode {n : Nat} {i : Instr} (h : i.wellFormed n = true) : decode n (encode i) = .ok i := by
  obtain ⟨hop, hz, harg⟩ := fields_of_wordOf i.opcode i.arg
  rw [encode, decode, if_pos hz, hop, harg]
  cases i
  case pwms | pwmd => exact decodeT_argT _ _ _ _
  case ctcs ie => exact decodeC_ofBool _ ie
  case tken | tkdis => rfl
  all_goals exact decodeE_eq_ok_iff.mpr ⟨of_decide_eq_true h, rfl⟩

/-- Settles O1: the decoder reads back the opcode and the argument, format by format. -/
theorem decodeOfEncodeIsTheCommand : Obligations.DecodeOfEncodeIsTheCommand := fun _ _ => decode_encode

/-- Settles O2: no bit of a decoded word is dropped, and its argument was legal. -/
theorem encodeOfDecodeIsTheWord : Obligations.EncodeOfDecodeIsTheWord := fun _ _ _ h =>
  ⟨encode_of_decode h, wellFormed_of_decode h⟩

/-- Settles O5: each word is the encoding of its command, which is well formed with eight cells. -/
theorem writtenOutWordsDecode : Obligations.WrittenOutWordsDecode :=
  ⟨decode_encode (i := .pwms .a true false) rfl, decode_encode (i := .pwmd .b false true) rfl,
    decode_encode (i := .ctcs true) rfl, decode_encode (i := .evrdy 7) rfl, decode_encode (i := .tken) rfl⟩

end Sys2Proof
end

section
/-! PROOFS. The command a step executes (R78), the register map and its reads (R50, R51), the pieces of a register (R54), and
the lines of a listing (R83). -/

namespace Sys2Proof

/-! ### Registers in pieces -/

/-- The first `c` bytes of a number, put together, are the number without what lies above them. -/
theorem natOfPieces_map_range (c x : Nat) :
    natOfPieces ((List.range c).map fun k => BitVec.ofNat 8 (x / 2 ^ (8 * k))) = x % 256 ^ c := by
  induction c generalizing x with
  | zero => simp [natOfPieces, Nat.mod_one]
  | succ c ih =>
    have hshift (k : Nat) : x / 2 ^ (8 * (k + 1)) = x / 256 / 2 ^ (8 * k) := by
      rw [Nat.div_div_eq_div_mul, Nat.mul_succ, Nat.add_comm, Nat.pow_add]
    rw [List.range_succ_eq_map, List.map_cons, List.map_map, natOfPieces, Nat.pow_succ', Nat.mod_mul, ← ih (x / 256)]
    simp [Function.comp_def, hshift]

/-- The pieces of a register are enough to hold its width. -/
theorem two_pow_le_pow_pieceCount (n : Nat) : 2 ^ n ≤ 256 ^ pieceCount n := by
  rw [show 256 = 2 ^ 8 from rfl, ← Nat.pow_mul, pieceCount]
  exact Nat.pow_le_pow_right (by decide) (by omega)

section
variable {n : Nat} (v : BitVec n)

/-- The pieces put together again (R54). -/
theorem valueOfPieces_piecesOf : valueOfPieces n (piecesOf v) = v := by
  rw [valueOfPieces, piecesOf, natOfPieces_map_range, Nat.mod_eq_of_lt (v.isLt.trans_le (two_pow_le_pow_pieceCount n)),
    BitVec.ofNat_toNat, BitVec.setWidth_eq]

theorem length_piecesOf : (piecesOf v).length = pieceCount n := by rw [piecesOf, List.length_map, List.length_range]

/-- Piece `k` is byte `k`, counted from the least significant (R54). -/
theorem getElem_piecesOf {k : Nat} (h : k < (piecesOf v).length) : (piecesOf v)[k] = v.extractLsb' (8 * k) 8 := by
  apply BitVec.eq_of_toNat_eq
  simp [piecesOf, BitVec.extractLsb'_toNat, Nat.shiftRight_eq_div_pow]

end

/-- Settles O50: the pieces are the bytes of the number in turn, enough of them for the width. -/
theorem piecesAreLeastSignificantFirst : Obligations.PiecesAreLeastSignificantFirst := fun _ v =>
  ⟨length_piecesOf v, valueOfPieces_piecesOf v, fun _ h => getElem_piecesOf v h⟩

/-! ### The word a step executes -/

/-- The opcode table numbers the bits of a 16-bit word as the word does. -/
theorem tableWord_toNat (w : CommandWord) : tableWord 16 w.toNat = w := by
  rw [tableWord, Nat.mod_eq_of_lt w.isLt, BitVec.ofNat_toNat, BitVec.setWidth_eq]

namespace Machine

/-- The host's write of a word to `CMD` executes the command the word decodes to (R78). -/
theorem step_write_cmd_of_decode (s : State) (rest : List (Turn s.params)) {w : CommandWord} {i : Instr}
    (h : decode s.params.nEvents w = .ok i) :
    step { s with schedule := .host (.write .cmd w) :: rest } = exec i { s with schedule := rest } := by
  rw [step_write, busWrite_cmd]
  exact command_of_ok { s with schedule := rest } h

/-- Settles O4: a placed word is a scheduled write, and the word of a well-formed command decodes to it. -/
theorem stepRunsTheDecodedCommand : Obligations.StepRunsTheDecodedCommand := by
  refine ⟨fun s rest w i h => step_write_cmd_of_decode s rest h, fun s i h => ?_⟩
  rw [State.withFetchWord, tableWord_toNat]
  exact step_write_cmd_of_decode s s.schedule (decode_encode h)

/-! ### The register map -/

/-- Settles O49: a look at each number, and at each register. -/
theorem registerNumbersAreAllAssigned : Obligations.RegisterNumbersAreAllAssigned :=
  ⟨by decide, fun r => by cases r <;> rfl⟩

/-- The bits of `FLAGS` (R28). -/
theorem Block.getLsbD_flags {p : Params} (b : Block p) (k : Nat) :
    b.flags.getLsbD k =
      ((k == 0 && b.tickEn) || (k == 1 && b.tickPend) || (k == 4 && b.initPwm) || (k == 5 && b.initCtc)) := by
  rcases Nat.lt_or_ge k 6 with hk | hk
  · have hbits : ∀ k < 6, ∀ en pend pwm ctc : Bool,
        (BitVec.ofBool ctc ++ BitVec.ofBool pwm ++ 0#2 ++ BitVec.ofBool pend ++ BitVec.ofBool en).getLsbD k =
          ((k == 0 && en) || (k == 1 && pend) || (k == 4 && pwm) || (k == 5 && ctc)) := by decide
    exact hbits k hk _ _ _ _
  · have hne (m : Nat) (hm : m < 6) : (k == m) = false := beq_false_of_ne (by omega)
    rw [BitVec.getLsbD_of_ge _ _ hk]
    simp [hne]

/-- Settles O47: the host's turn is the reading, and the content of `FLAGS` is the window of R28. -/
theorem busReadsReturnTheContent : Obligations.BusReadsReturnTheContent :=
  ⟨step_read, fun _ b => ⟨rfl, rfl, rfl, rfl, rfl, rfl, rfl, rfl, rfl, rfl, rfl, rfl, rfl, rfl, rfl, b.getLsbD_flags⟩⟩

/-! ### The lines of a listing -/

/-- Settles O57: each line is expanded, and the literal 5 keeps its low bits at every width of a count. -/
theorem listingLinesExpandAsTheTable : Obligations.ListingLinesExpandAsTheTable := fun _ =>
  ⟨rfl, rfl, rfl, rfl, rfl, rfl, rfl, rfl, rfl, rfl, rfl, rfl⟩

/-- A quotient negated on both sides is rounded up. -/
theorem neg_ediv_neg_bounds (a : Int) {d : Int} (hd : 0 < d) : (-(-a / d) - 1) * d < a ∧ a ≤ -(-a / d) * d := by
  have hle := Int.ediv_mul_le (-a) hd.ne'
  have hlt := Int.lt_ediv_add_one_mul_self (-a) hd
  constructor <;> linarith

/-- Settles O58: from 0 on the pattern is the quotient rounded up, below 0 rounded down. -/
theorem timePatternsRoundAwayFromZero : Obligations.TimePatternsRoundAwayFromZero := by
  intro digits places
  have hpos : (0 : Int) < 10 ^ places := by positivity
  refine ⟨fun h => ?up, fun h => ?down⟩
  case up =>
    rw [timePattern, if_pos h]
    exact neg_ediv_neg_bounds _ hpos
  case down =>
    rw [timePattern, if_neg h.not_ge]
    exact ⟨Int.ediv_mul_le _ hpos.ne', Int.lt_ediv_add_one_mul_self _ hpos⟩

end Machine

end Sys2Proof
end

section
/-! PROOFS. What every command and every step leaves unchanged: the operands (R52), the pin marks and initialised flags
(R41), the two halves against each other (R156), the tick bits (R39, R40) and the build (R43). -/

namespace Sys2Proof.Machine

/-! ### Frames of the shared operations -/

section
variable {p : Params} (b : Block p)

/-- An access to a cell writes cells, `STATUS` and `RESULT` only, whether it succeeds or fails (R130). -/
theorem Block.onCell_frame (idx : BitVec 8) (f : Cell p.cdw → Cell p.cdw × Bool) :
    ∃ cells st r, b.onCell idx f = { b with cells := cells, status := st, result := r } := by
  rcases b.onCell_cases idx f with ⟨_, e⟩ | ⟨-, e⟩
  · exact ⟨_, _, _, e⟩
  · exact ⟨b.cells, _, _, e⟩

/-- The dispatcher's turn writes cells and `TICK_PEND` only (R152). -/
theorem Block.dispatcherTurn_frame : ∃ cells pend, b.dispatcherTurn = { b with cells := cells, tickPend := pend } := by
  rcases b.dispatcherTurn_cases with ⟨-, -, e⟩ | ⟨-, e⟩
  · exact ⟨_, _, e⟩
  · exact ⟨b.cells, b.tickPend, e⟩

/-- A store writes operands only (R52). -/
theorem Block.store_frame (r : HostReg) (v : BitVec (r.width p)) :
    ∃ ont per duty cnt, b.store r v = { b with ont := ont, per := per, duty := duty, cnt := cnt } := by
  cases r <;> exact ⟨_, _, _, _, rfl⟩

end

/-! ### Frames of the commands -/

section
variable {i : Instr} {s : State} {b' : Block s.params}

/-- A command that is no timer command writes cells, `TICK_EN`, `STATUS` and `RESULT` only (R130, R153, R154). -/
theorem exec_frame_of_not_timer (h : exec i s = .next { s with block := b' }) (hi : isTimerCommand i = false) :
    ∃ cells en st r, b' = { s.block with cells := cells, tickEn := en, status := st, result := r } := by
  rcases exec_cases h with ⟨ht, -⟩ | ⟨-, idx, f, -, rfl⟩ | ⟨-, rfl⟩ | ⟨-, rfl⟩
  · exact absurd (hi.symm.trans ht) Bool.false_ne_true
  · obtain ⟨cells, st, r, e⟩ := s.block.onCell_frame idx f
    exact ⟨cells, s.block.tickEn, st, r, e⟩
  · exact ⟨_, _, _, _, rfl⟩
  · exact ⟨_, _, _, _, rfl⟩

/-- Everything a timer command can do: a PWM16 commit, a CTC8 commit, or a failure (R106, R113). -/
theorem exec_cases_of_timer (h : exec i s = .next { s with block := b' }) (hi : isTimerCommand i = true) :
    (∃ onRaw perRaw ch iea ieb plan, pwmPlan s.params onRaw perRaw ch = .ok plan ∧
      b' = (s.block.commitPwm plan ch iea ieb).done false) ∨
    (∃ x ie, ctcPlan s.params s.block.perRaw = .ok x ∧ b' = (s.block.commitCtc x ie).done false) ∨
    ∃ st, b' = s.block.fail st := by
  rcases exec_cases h with ⟨-, hc⟩ | ⟨hi', -⟩ | ⟨rfl, -⟩ | ⟨rfl, -⟩
  · exact hc
  · exact absurd (hi'.symm.trans hi) Bool.false_ne_true
  · exact absurd hi Bool.false_ne_true
  · exact absurd hi Bool.false_ne_true

/-- No command writes an operand register or `TICK_PEND` (R39, R52). -/
theorem exec_keeps_operands_and_tickPend (h : exec i s = .next { s with block := b' }) :
    b'.ont = s.block.ont ∧ b'.per = s.block.per ∧ b'.duty = s.block.duty ∧ b'.cnt = s.block.cnt ∧
      b'.tickPend = s.block.tickPend := by
  cases hi : isTimerCommand i with
  | true =>
    rcases exec_cases_of_timer h hi with ⟨_, _, _, _, _, _, -, rfl⟩ | ⟨_, _, -, rfl⟩ | ⟨_, rfl⟩
    all_goals exact ⟨rfl, rfl, rfl, rfl, rfl⟩
  | false =>
    obtain ⟨_, _, _, _, rfl⟩ := exec_frame_of_not_timer h hi
    exact ⟨rfl, rfl, rfl, rfl, rfl⟩

end

/-! ### Every step answers, in the same build -/

/-- A step that answers a next state leaves its block, in the same build (R43). -/
theorem stepsTo_of_step {s t : State} (h : step s = .next t) :
    ∃ b' q n d, s.StepsTo b' ∧ t = { s with block := b', schedule := q, refills := n, hostData := d } := by
  obtain ⟨b', q, n, d, e⟩ := step_eq_next s
  exact ⟨b', q, n, d, ⟨q, n, d, e⟩, Host.Outcome.next.inj (h.symm.trans e)⟩

/-- Settles O46: the next states of `step_eq_next` and `exec_eq_next`. -/
theorem everyStepAnswersNext : Obligations.EveryStepAnswersNext := by
  refine ⟨fun s => ?_, fun i s => ?_⟩
  · obtain ⟨b', q, n, d, e⟩ := step_eq_next s
    exact ⟨_, e⟩
  · obtain ⟨b', e⟩ := exec_eq_next i s
    exact ⟨_, e⟩

/-- Settles O59: the next states of `step_eq_next` and `exec_eq_next` are of the build of `s`. -/
theorem everyStepKeepsTheBuild : Obligations.EveryStepKeepsTheBuild := by
  refine ⟨fun s t h => ?_, step_eq_next, fun i s t h => ?_⟩
  · obtain ⟨b', q, n, d, -, rfl⟩ := stepsTo_of_step h
    rfl
  · obtain ⟨b', e⟩ := exec_eq_next i s
    exact ⟨b', Host.Outcome.next.inj (h.symm.trans e)⟩

/-! ### The operands -/

/-- A store to a register is to the operand it changes, and leaves the value written there (R52). -/
theorem Block.store_operands {p : Params} (b : Block p) (r : HostReg) (v : BitVec (r.width p)) (t : Option (Turn p))
    (ht : t = some (.host (.write r v))) :
    ((b.store r v).ont = b.ont ∨ t = some (.host (.write .ont (b.store r v).ont))) ∧
    ((b.store r v).per = b.per ∨ t = some (.host (.write .per (b.store r v).per))) ∧
    ((b.store r v).duty = b.duty ∨ t = some (.host (.write .duty (b.store r v).duty))) ∧
    ((b.store r v).cnt = b.cnt ∨ t = some (.host (.write .cnt (b.store r v).cnt))) := by
  cases r
  case ont => exact ⟨.inr ht, .inl rfl, .inl rfl, .inl rfl⟩
  case per => exact ⟨.inl rfl, .inr ht, .inl rfl, .inl rfl⟩
  case duty => exact ⟨.inl rfl, .inl rfl, .inr ht, .inl rfl⟩
  case cnt => exact ⟨.inl rfl, .inl rfl, .inl rfl, .inr ht⟩
  all_goals exact ⟨.inl rfl, .inl rfl, .inl rfl, .inl rfl⟩

/-- Settles O41: of all turns but reset, only a store writes an operand. -/
theorem operandRegistersAreHostOwned : Obligations.OperandRegistersAreHostOwned := by
  intro s b' hstep hreset
  rcases hstep.cases with ⟨-, rfl⟩ | ⟨-, rfl⟩ | ⟨ht, -⟩ | ⟨r, -, rfl⟩ | ⟨r, v, ht, -, rfl⟩ |
    ⟨w, -, ⟨i, -, hexec⟩ | ⟨-, rfl⟩⟩
  · obtain ⟨_, _, e⟩ := s.block.dispatcherTurn_frame
    rw [e]
    exact ⟨.inl rfl, .inl rfl, .inl rfl, .inl rfl⟩
  · exact ⟨.inl rfl, .inl rfl, .inl rfl, .inl rfl⟩
  · exact absurd ht hreset
  · exact ⟨.inl rfl, .inl rfl, .inl rfl, .inl rfl⟩
  · exact s.block.store_operands r v s.turn? ht
  · obtain ⟨hont, hper, hduty, hcnt, -⟩ := exec_keeps_operands_and_tickPend hexec
    exact ⟨.inl hont, .inl hper, .inl hduty, .inl hcnt⟩
  · exact ⟨.inl rfl, .inl rfl, .inl rfl, .inl rfl⟩

/-! ### The timer half -/

/-- `c` has the timer output registers and the initialised flags of `b` (R156). -/
def Block.SameTimer {p : Params} (b c : Block p) : Prop :=
  c.t1ps = b.t1ps ∧ c.t1top = b.t1top ∧ c.t1cmpa = b.t1cmpa ∧ c.t1cmpb = b.t1cmpb ∧ c.t1ctl = b.t1ctl ∧
    c.t2ps = b.t2ps ∧ c.t2cmp = b.t2cmp ∧ c.t2ctl = b.t2ctl ∧ c.initPwm = b.initPwm ∧ c.initCtc = b.initCtc

/-- An update of fields outside the timer half leaves it. -/
theorem Block.sameTimer_update {p : Params} (b : Block p) (ont per duty cnt st r cells pend en) :
    b.SameTimer { b with
      ont := ont, per := per, duty := duty, cnt := cnt, status := st, result := r
      cells := cells, tickPend := pend, tickEn := en } := ⟨rfl, rfl, rfl, rfl, rfl, rfl, rfl, rfl, rfl, rfl⟩

theorem Block.sameTimer_dispatcherTurn {p : Params} (b : Block p) : b.SameTimer b.dispatcherTurn := by
  obtain ⟨cells, pend, e⟩ := b.dispatcherTurn_frame
  rw [e]
  exact b.sameTimer_update ..

theorem Block.sameTimer_store {p : Params} (b : Block p) (r : HostReg) (v : BitVec (r.width p)) :
    b.SameTimer (b.store r v) := by
  obtain ⟨ont, per, duty, cnt, e⟩ := b.store_frame r v
  rw [e]
  exact b.sameTimer_update ..

theorem exec_sameTimer {i : Instr} {s : State} {b' : Block s.params} (h : exec i s = .next { s with block := b' })
    (hi : isTimerCommand i = false) : s.block.SameTimer b' := by
  obtain ⟨cells, en, st, r, rfl⟩ := exec_frame_of_not_timer h hi
  exact s.block.sameTimer_update ..

/-- Settles O40: each command by its family, and the two agents by their own operations. -/
theorem theTwoHalvesAreIndependent : Obligations.TheTwoHalvesAreIndependent := by
  intro s timerKept
  refine ⟨fun i b' h => ?command, fun b' hstep hturn => ?agents⟩
  case command =>
    split
    case isTrue hi =>
      rcases exec_cases_of_timer h hi with ⟨_, _, _, _, _, _, -, rfl⟩ | ⟨_, _, -, rfl⟩ | ⟨_, rfl⟩
      all_goals exact ⟨rfl, rfl, rfl⟩
    case isFalse hi => exact exec_sameTimer h (Bool.eq_false_of_not_eq_true hi)
  case agents =>
    rcases hstep.cases with ⟨-, rfl⟩ | ⟨-, rfl⟩ | ⟨ht, -⟩ | ⟨r, ht, -⟩ | ⟨r, v, ht, -⟩ | ⟨w, ht, -⟩
    · exact s.block.sameTimer_dispatcherTurn
    · exact s.block.sameTimer_update ..
    all_goals simp [ht] at hturn

/-- What a step can do to the timer half: reset clears it, a command may write it, and every other turn leaves it. -/
theorem State.StepsTo.timer_cases {s : State} {b' : Block s.params} (h : s.StepsTo b') :
    (s.turn? = some .reset ∧ b' = Block.reset s.params) ∨ (∃ i, exec i s = .next { s with block := b' }) ∨
      s.block.SameTimer b' := by
  rcases h.cases with ⟨-, rfl⟩ | ⟨-, rfl⟩ | hreset | ⟨r, -, rfl⟩ | ⟨r, v, -, -, rfl⟩ | ⟨w, -, ⟨i, -, hexec⟩ | ⟨-, rfl⟩⟩
  · exact .inr (.inr s.block.sameTimer_dispatcherTurn)
  · exact .inr (.inr (s.block.sameTimer_update ..))
  · exact .inl hreset
  · exact .inr (.inr (s.block.sameTimer_update ..))
  · exact .inr (.inr (s.block.sameTimer_store r v))
  · exact .inr (.inl ⟨i, hexec⟩)
  · exact .inr (.inr (s.block.sameTimer_update ..))

/-- `c` has every pin mark and initialised flag that `b` has (R41). -/
def Block.KeepsMarks {p : Params} (b c : Block p) : Prop :=
  (t1Ddra b.t1ctl = true → t1Ddra c.t1ctl = true) ∧ (t1Ddrb b.t1ctl = true → t1Ddrb c.t1ctl = true) ∧
    (b.initPwm = true → c.initPwm = true) ∧ (b.initCtc = true → c.initCtc = true)

/-- What leaves the timer half leaves the marks and the flags. -/
theorem Block.SameTimer.keepsMarks {p : Params} {b c : Block p} (h : b.SameTimer c) : b.KeepsMarks c := by
  obtain ⟨-, -, -, -, hctl, -, -, -, hpwm, hctc⟩ := h
  rw [Block.KeepsMarks, hctl, hpwm, hctc]
  exact ⟨id, id, id, id⟩

/-- A command only ever sets a pin mark or an initialised flag (R41, R109). -/
theorem exec_keepsMarks {i : Instr} {s : State} {b' : Block s.params} (h : exec i s = .next { s with block := b' }) :
    s.block.KeepsMarks b' := by
  cases hi : isTimerCommand i with
  | true =>
    rcases exec_cases_of_timer h hi with ⟨_, _, _, _, _, _, -, rfl⟩ | ⟨_, _, -, rfl⟩ | ⟨_, rfl⟩
    · exact ⟨fun ha => by simp [ha], fun hb => by simp [hb], fun _ => rfl, id⟩
    · exact ⟨id, id, id, fun _ => rfl⟩
    · exact ⟨id, id, id, id⟩
  | false => exact (exec_sameTimer h hi).keepsMarks

/-- Settles O42: of all turns but reset, only a command writes a mark or a flag. -/
theorem onlyResetClearsMarksAndInitFlags : Obligations.OnlyResetClearsMarksAndInitFlags := by
  intro s b' hstep hreset
  show s.block.KeepsMarks b'
  rcases hstep.timer_cases with ⟨ht, -⟩ | ⟨i, hexec⟩ | hsame
  · exact absurd ht hreset
  · exact exec_keepsMarks hexec
  · exact hsame.keepsMarks

/-! ### The tick bits -/

/-- Settles O44: the words of TKEN and TKDIS are the two of R153 and R154. -/
theorem onlyTkenAndTkdisMoveTheEnable : Obligations.OnlyTkenAndTkdisMoveTheEnable := fun _ _ hstep hne =>
  hstep.tickEn_cases.resolve_left hne

/-- The dispatcher has its turn where none is scheduled, too (assumption log 3). -/
theorem State.dispatches_of_dispatcher_or_none {s : State} (h : s.turn? = none ∨ s.turn? = some .dispatcher) :
    s.dispatches = s.block.dispatchEnabled := by
  rcases h with h | h <;> simp [State.dispatches, h]

/-- No other agent's turn is a dispatch (R152). -/
theorem State.dispatches_of_other {s : State} {x : Turn s.params} (h : s.turn? = some x) (hx : x ≠ .dispatcher) :
    s.dispatches = false := by
  simp [State.dispatches, h, hx]

/-- Everything a step can do to the pending tick, and on which turn (R39, R150, R152). -/
theorem State.StepsTo.tickPend_cases {s : State} {b' : Block s.params} (h : s.StepsTo b') :
    (s.turn? = some .tickSource ∧ s.dispatches = false ∧ b'.tickPend = true) ∨
    (s.dispatches = true ∧ s.block.tickPend = true ∧ b'.tickPend = false) ∨
    (s.turn? = some .reset ∧ s.dispatches = false ∧ b'.tickPend = false) ∨
    (s.dispatches = false ∧ b'.tickPend = s.block.tickPend) := by
  rcases h.cases with ⟨ht, rfl⟩ | ⟨ht, rfl⟩ | ⟨ht, rfl⟩ | ⟨r, ht, rfl⟩ | ⟨r, v, ht, -, rfl⟩ |
    ⟨w, ht, ⟨i, -, hexec⟩ | ⟨-, rfl⟩⟩
  case inl =>
    rw [State.dispatches_of_dispatcher_or_none ht]
    rcases s.block.dispatcherTurn_cases with ⟨hpend, hen, e⟩ | ⟨hdis, e⟩ <;> rw [e]
    · exact .inr (.inl ⟨(Block.dispatchEnabled_iff _).mpr ⟨hpend, hen⟩, hpend, rfl⟩)
    · exact .inr (.inr (.inr ⟨hdis, rfl⟩))
  all_goals have hdis := State.dispatches_of_other ht nofun
  · exact .inl ⟨ht, hdis, rfl⟩
  · exact .inr (.inr (.inl ⟨ht, hdis, rfl⟩))
  · exact .inr (.inr (.inr ⟨hdis, rfl⟩))
  · obtain ⟨_, _, _, _, e⟩ := s.block.store_frame r v
    rw [e]
    exact .inr (.inr (.inr ⟨hdis, rfl⟩))
  · obtain ⟨-, -, -, -, hkeep⟩ := exec_keeps_operands_and_tickPend hexec
    exact .inr (.inr (.inr ⟨hdis, hkeep⟩))
  · exact .inr (.inr (.inr ⟨hdis, rfl⟩))

/-- Settles O45: the cases of `tickPend_cases` in which the bit changes. -/
theorem onlyDispatchAndResetClearThePendingTick : Obligations.OnlyDispatchAndResetClearThePendingTick := by
  intro s b' hstep
  rcases hstep.tickPend_cases with ⟨ht, -, hset⟩ | ⟨hdisp, -, hclear⟩ | ⟨ht, -, hclear⟩ | ⟨-, hkeep⟩
  · exact ⟨fun _ _ => ht, fun _ h => absurd (hset.symm.trans h) nofun⟩
  · exact ⟨fun _ h => absurd (hclear.symm.trans h) nofun, fun _ _ => .inl hdisp⟩
  · exact ⟨fun _ h => absurd (hclear.symm.trans h) nofun, fun _ _ => .inr ht⟩
  · rw [hkeep]
    exact ⟨fun h₀ h₁ => absurd (h₀.symm.trans h₁) nofun, fun h₁ h₀ => absurd (h₁.symm.trans h₀) nofun⟩

end Sys2Proof.Machine
end

section
/-! PROOFS. The rest of 40_timer_engine.md: times rounded up (R199), the whole of R103 about the search, and what the three
timer commands commit, repeat and depend on (R107 to R116). -/

namespace Sys2Proof.Machine

/-! ### The converter on rounded times -/

/-- A quotient rounded up, times its divisor, exceeds the dividend by less than the divisor. -/
theorem mul_ceilDiv_bounds (a : Nat) {d : Nat} (hd : 0 < d) :
    a ≤ d * ((a + (d - 1)) / d) ∧ d * ((a + (d - 1)) / d) < a + d := by
  have hle := Nat.mul_div_le (a + (d - 1)) d
  have hlt := Nat.lt_mul_div_succ (a + (d - 1)) hd
  rw [Nat.mul_succ] at hlt
  omega

/-- Settles O7: the product exceeds `N * 2^32` by less than the clock, which is below `2^32`. -/
theorem roundedUpTimesConvertExactly : Obligations.RoundedUpTimesConvertExactly := by
  intro fClk N hpos hlt
  obtain ⟨hlow, hhigh⟩ := mul_ceilDiv_bounds (N * 2 ^ 32) hpos
  refine Nat.div_eq_of_lt_le hlow ?_
  rw [Nat.succ_mul]
  exact hhigh.trans_le (Nat.add_le_add_left hlt.le _)

/-! ### The search -/

/-- The search steps over a ratio only when the period is too large for the divisor so far (R102). -/
theorem lt_div_of_lt_idx {M : Nat} {R : List Nat} {idx sp so : Nat} {x : Scaled} (h : searchFrom M R idx sp so = some x)
    {j : Nat} (hj : idx + j < x.idx) : M < sp / (R.take j).prod := by
  induction R generalizing idx sp so j with
  | nil =>
    obtain ⟨k, hk, rfl, -⟩ := searchFrom_eq_some h
    rw [List.length_nil] at hk
    exact absurd hj (by dsimp only; omega)
  | cons r rs ih =>
    rcases Nat.lt_or_ge M sp with hlt | hle
    · rw [searchFrom_cons_of_lt r rs idx so hlt] at h
      cases j with
      | zero => simpa using hlt
      | succ j =>
        rw [List.take_succ_cons, List.prod_cons, ← Nat.div_div_eq_div_mul]
        exact ih h (by omega)
    · rw [searchFrom_of_le (r :: rs) idx so hle] at h
      cases h
      exact absurd hj (by dsimp only; omega)

/-- The search fails exactly when the period does not fit after division by every ratio (R103 (c)). -/
theorem selectPrescaler_eq_none_iff (P O M : Nat) (R : List Nat) : selectPrescaler P O M R = none ↔ M < P / R.prod := by
  constructor
  · intro h
    by_contra hle
    obtain ⟨x, hx⟩ := exists_searchFrom_eq_some 1 O (not_lt.mp hle)
    exact absurd (h.symm.trans hx) nofun
  · intro h
    rw [Option.eq_none_iff_forall_ne_some]
    intro x hx
    obtain ⟨k, -, -, hM⟩ := searchFrom_eq_some hx
    rw [← List.prod_take_mul_prod_drop R k, ← Nat.div_div_eq_div_mul] at h
    exact absurd (h.trans_le (Nat.div_le_self _ _)) hM.not_gt

/-- Every cumulative divisor is positive. -/
theorem prod_take_pos {R : List Nat} (hR : ∀ r ∈ R, 2 ≤ r) (k : Nat) : 0 < (R.take k).prod :=
  List.prod_pos fun r hr => Nat.zero_lt_of_lt (hR r (List.mem_of_mem_take hr))

/-- Settles O8: the search has divided by a product of leading ratios, the first that makes the period fit. -/
theorem prescalerSearchFindsTheSmallestFit : Obligations.PrescalerSearchFindsTheSmallestFit := by
  intro P O M R hR D
  have hDpos (k : Nat) : 0 < D k := prod_take_pos hR (k - 1)
  have hDend : D (R.length + 1) = R.prod := congrArg List.prod R.take_length
  refine ⟨fun x hx => ?found, fun k _ _ => ?fits, ?fails, ?tooLarge⟩
  case found =>
    have hsmaller : ∀ k, 1 ≤ k → k < x.idx → M < P / D k := fun k hk hlt =>
      lt_div_of_lt_idx hx (by omega)
    obtain ⟨k, hk, rfl, hM⟩ := searchFrom_eq_some hx
    have hD : D (1 + k) = (R.take k).prod := by dsimp only [D]; rw [Nat.add_sub_cancel_left]
    dsimp only at hsmaller ⊢
    rw [hD]
    exact ⟨by omega, by omega, rfl, rfl, hM, hsmaller, Nat.div_le_div_right, Nat.div_mul_le_self _ _,
      Nat.lt_mul_of_div_lt (Nat.lt_succ_self _) (hD ▸ hDpos (1 + k))⟩
  case fits =>
    have : 0 < (M + 1) * D k := Nat.mul_pos M.succ_pos (hDpos k)
    rw [← Nat.lt_add_one_iff, Nat.div_lt_iff_lt_mul (hDpos k)]
    omega
  case fails => rw [hDend, selectPrescaler_eq_none_iff]
  case tooLarge =>
    rw [selectPrescaler_eq_none_iff, ← Nat.succ_le_iff, Nat.le_div_iff_mul_le (hDend ▸ hDpos _)]

/-- Settles O9: the ceiling leaves room for every period below it, and the defaults are multiplied out. -/
theorem ceilingGuaranteesTheSearch : Obligations.CeilingGuaranteesTheSearch :=
  ⟨fun _ O _ _ _ h => exists_selectPrescaler_eq_some O h, rfl, rfl⟩

/-- Settles O10: the ranges of the search, halved. -/
theorem pwmValuesFitTheirRegisters : Obligations.PwmValuesFitTheirRegisters := by
  intro p onRaw perRaw ch plan h
  obtain ⟨-, -, hper, -, -, x, hx, rfl⟩ := pwmPlan_ok h
  obtain ⟨hidx, hidx_le, hperiod, honTime⟩ := selectPrescaler_bounds hx (cycles_mono p.fClk (Int.toNat_le_toNat hper))
  refine ⟨x, hx, rfl, Nat.shiftRight_one _, Nat.shiftRight_one _, hidx, hidx_le, hperiod, honTime, ?_⟩
  simp only [Nat.shiftRight_one]
  exact ⟨Nat.div_le_div_right honTime, Nat.div_le_div_right (c := 2) hperiod⟩

/-! ### The three commits -/

/-- Settles O12: PWMS is `pwm_core` on its operands. -/
theorem pwmsCommitsTheRequest : Obligations.PwmsCommitsTheRequest := fun s ch iea ieb hon hper hceil hch =>
  ⟨_, pwmCoreCommitsNumbersAndRouting s.params s.block _ _ ch iea ieb hon hper hceil hch, rfl⟩

/-- PWMD where its own tests pass (R111). -/
theorem Block.pwmd_of_valid {p : Params} (b : Block p) (ch : Selector) (iea ieb : Bool) (hper : 0 ≤ b.per.toInt)
    (hduty : 0 ≤ b.duty.toInt) (hduty_le : b.duty.toInt ≤ 100) :
    b.pwmd ch iea ieb = b.pwmCore (b.per.toInt * b.duty.toInt / 100) b.per.toInt ch iea ieb := by
  rcases b.pwmd_cases ch iea ieb with ⟨hneg, -⟩ | ⟨-, hbad, -⟩ | ⟨-, -, -, e⟩
  · exact absurd hper hneg.not_ge
  · exact absurd hbad (not_or.mpr ⟨hduty.not_gt, hduty_le.not_gt⟩)
  · exact e

/-- The on-time PWMD forms, as a natural number. -/
theorem dutyOnTime_toNat {perRaw duty : Int} (hper : 0 ≤ perRaw) (hduty : 0 ≤ duty) :
    (perRaw * duty / 100).toNat = perRaw.toNat * duty.toNat / 100 := by
  lift perRaw to Nat using hper
  lift duty to Nat using hduty
  norm_cast

/-- Settles O13: past its own tests, PWMD is `pwm_core` on the on-time it forms, which is in range. -/
theorem pwmdCommitsTheDutyCycle : Obligations.PwmdCommitsTheDutyCycle := by
  intro s ch iea ieb hper hduty hduty_le hceil hch
  obtain ⟨hon, hon_le⟩ := dutyOnTime_bounds hper hduty hduty_le
  refine ⟨s.block.pwmd ch iea ieb, ?_, rfl⟩
  rw [s.block.pwmd_of_valid ch iea ieb hper hduty hduty_le, ← dutyOnTime_toNat hper hduty]
  exact pwmCoreCommitsNumbersAndRouting s.params s.block _ _ ch iea ieb hon hon_le hceil hch

/-- Where both tests of CTCS pass, the search gives its values (R113). -/
theorem exists_ctcPlan_eq_ok {p : Params} {perRaw : Int} (hper : 0 ≤ perRaw)
    (hceil : cycles p.fClk perRaw.toNat ≤ p.ceilCtc) : ∃ x, ctcPlan p perRaw = .ok x := by
  obtain ⟨x, hx⟩ := exists_selectPrescaler_eq_some 0 hceil
  exact ⟨x, by rw [ctcPlan, if_neg hper.not_gt, if_neg hceil.not_gt, hx]⟩

/-- The ranges of what CTCS commits (R34, R112). -/
theorem ctcPlan_bounds {p : Params} {perRaw : Int} {x : Scaled} (h : ctcPlan p perRaw = .ok x) :
    1 ≤ x.idx ∧ x.idx ≤ p.ratiosCtc.length + 1 ∧ x.period ≤ 255 := by
  obtain ⟨hidx, hidx_le, hperiod, -⟩ := selectPrescaler_bounds (ctcPlan_ok h).2.2 (Nat.zero_le _)
  exact ⟨hidx, hidx_le, hperiod⟩

theorem Block.ctcs_of_ok {p : Params} {b : Block p} {x : Scaled} (ie : Bool) (h : ctcPlan p b.perRaw = .ok x) :
    b.ctcs ie = (b.commitCtc x ie).done false := by rw [Block.ctcs, h]

theorem Block.ctcs_of_error {p : Params} {b : Block p} {st : Status} (ie : Bool) (h : ctcPlan p b.perRaw = .error st) :
    b.ctcs ie = b.fail st := by rw [Block.ctcs, h]

/-- Settles O15: with both tests passed there is a plan, and CTCS commits it. -/
theorem ctcsCommitsThePeriod : Obligations.CtcsCommitsThePeriod := by
  intro s ie hper hceil
  obtain ⟨x, hx⟩ := exists_ctcPlan_eq_ok hper hceil
  obtain ⟨-, -, hsearch⟩ := ctcPlan_ok hx
  obtain ⟨hidx, hidx_le, hperiod⟩ := ctcPlan_bounds hx
  refine ⟨s.block.ctcs ie, ⟨x, hsearch, hidx, hidx_le, hperiod, ?_⟩, rfl⟩
  rw [Block.ctcs_of_ok ie hx]
  rfl

/-! ### PWMD against PWMS -/

/-- `pwm_core` takes its times as arguments, and neither reads nor writes `ONT` (R106). -/
theorem Block.pwmCore_with_ont {p : Params} (b : Block p) (v : TimeWord) (onRaw perRaw : Int) (ch : Selector) (iea ieb : Bool) :
    ({ b with ont := v } : Block p).pwmCore onRaw perRaw ch iea ieb = { b.pwmCore onRaw perRaw ch iea ieb with ont := v } := by
  unfold Block.pwmCore
  cases pwmPlan p onRaw perRaw ch <;> rfl

/-- An integer from 0 to the value of a time operand is a time operand. -/
theorem toInt_ofInt_of_le {x : Int} {v : TimeWord} (h : 0 ≤ x) (hle : x ≤ v.toInt) : (BitVec.ofInt 64 x).toInt = x := by
  have hv : v.toInt < 2 ^ 63 := v.toInt_lt
  rw [BitVec.toInt_ofInt, Int.bmod_eq_of_le] <;> omega

/-- PWMD against PWMS on the on-time it forms (R111). -/
theorem Block.pwmd_eq_pwms_with_ont {p : Params} (b : Block p) (ch : Selector) (iea ieb : Bool) (hper : 0 ≤ b.per.toInt)
    (hduty : 0 ≤ b.duty.toInt) (hduty_le : b.duty.toInt ≤ 100) :
    b.pwmd ch iea ieb =
      { ({ b with ont := BitVec.ofInt 64 (b.per.toInt * b.duty.toInt / 100) } : Block p).pwms ch iea ieb with
        ont := b.ont } := by
  obtain ⟨hon, hon_le⟩ := dutyOnTime_bounds hper hduty hduty_le
  rw [b.pwmd_of_valid ch iea ieb hper hduty hduty_le, Block.pwms, Block.onRaw, toInt_ofInt_of_le hon hon_le,
    ← Block.pwmCore_with_ont]
  rfl

/-- Settles O14: both commands are `pwm_core` on the same two times. -/
theorem dutyModeEqualsTheCoreEntryPoint : Obligations.DutyModeEqualsTheCoreEntryPoint := by
  intro s t ch iea ieb hper hduty hduty_le h
  obtain rfl := Host.Outcome.next.inj h
  exact congrArg s.answer (s.block.pwmd_eq_pwms_with_ont ch iea ieb hper hduty hduty_le)

/-! ### A command given again -/

section
variable {p : Params} (b : Block p)

/-- A PWM16 commit with nothing new in it: the marks it would set are set (R108, R109). -/
theorem Block.commitPwm_commitPwm (plan : PwmPlan) (ch : Selector) (iea ieb : Bool) :
    (((b.commitPwm plan ch iea ieb).done false).commitPwm plan ch iea ieb).done false =
      (b.commitPwm plan ch iea ieb).done false := by
  simp only [Block.commitPwm, Block.done, t1Ddra_pack, t1Ddrb_pack, Bool.or_assoc, Bool.or_self]
  cases ch <;> rfl

/-- A second run of `pwm_core` on the same times is decided as the first was, and repeats its commit or its failure. -/
theorem Block.pwmCore_pwmCore (onRaw perRaw : Int) (ch : Selector) (iea ieb : Bool) :
    (b.pwmCore onRaw perRaw ch iea ieb).pwmCore onRaw perRaw ch iea ieb = b.pwmCore onRaw perRaw ch iea ieb := by
  unfold Block.pwmCore
  cases pwmPlan p onRaw perRaw ch with
  | ok plan => exact b.commitPwm_commitPwm plan ch iea ieb
  | error st => rfl

theorem Block.pwmCore_operands (onRaw perRaw : Int) (ch : Selector) (iea ieb : Bool) :
    (b.pwmCore onRaw perRaw ch iea ieb).ont = b.ont ∧ (b.pwmCore onRaw perRaw ch iea ieb).per = b.per ∧
      (b.pwmCore onRaw perRaw ch iea ieb).duty = b.duty := by
  rcases b.pwmCore_cases onRaw perRaw ch iea ieb with ⟨plan, -, e⟩ | ⟨st, -, e⟩ <;> rw [e] <;> exact ⟨rfl, rfl, rfl⟩

theorem Block.pwms_pwms (ch : Selector) (iea ieb : Bool) : (b.pwms ch iea ieb).pwms ch iea ieb = b.pwms ch iea ieb := by
  obtain ⟨hont, hper, -⟩ := b.pwmCore_operands b.onRaw b.perRaw ch iea ieb
  have hcore : (b.pwms ch iea ieb).pwms ch iea ieb = (b.pwms ch iea ieb).pwmCore b.onRaw b.perRaw ch iea ieb :=
    congrArg₂ (fun on per : TimeWord => (b.pwms ch iea ieb).pwmCore on.toInt per.toInt ch iea ieb) hont hper
  exact hcore.trans (b.pwmCore_pwmCore ..)

theorem Block.pwmd_pwmd (ch : Selector) (iea ieb : Bool) : (b.pwmd ch iea ieb).pwmd ch iea ieb = b.pwmd ch iea ieb := by
  rcases b.pwmd_cases ch iea ieb with ⟨hper, e⟩ | ⟨hper, hduty, e⟩ | ⟨hper, hduty, hduty_le, e⟩ <;> rw [e]
  · exact if_pos hper
  · exact (if_neg hper.not_gt).trans (if_pos hduty)
  · obtain ⟨-, hper_eq, hduty_eq⟩ := b.pwmCore_operands (b.perRaw * b.dutyPercent / 100) b.perRaw ch iea ieb
    rw [Block.pwmd_of_valid _ ch iea ieb (hper_eq ▸ hper) (hduty_eq ▸ hduty) (hduty_eq ▸ hduty_le), hper_eq, hduty_eq]
    exact b.pwmCore_pwmCore ..

theorem Block.ctcs_ctcs (ie : Bool) : (b.ctcs ie).ctcs ie = b.ctcs ie := by
  rcases b.ctcs_cases ie with ⟨x, hx, e⟩ | ⟨st, hst, e⟩ <;> rw [e]
  · exact Block.ctcs_of_ok ie hx
  · exact Block.ctcs_of_error (b := b.fail st) ie hst

end

/-- Settles O17: each of the three leaves a block that it does not change. -/
theorem repeatedConfigurationChangesNothing : Obligations.RepeatedConfigurationChangesNothing := by
  intro i s t hi h
  cases i
  case pwms ch iea ieb =>
    cases h
    exact congrArg s.answer (s.block.pwms_pwms ch iea ieb)
  case pwmd ch iea ieb =>
    cases h
    exact congrArg s.answer (s.block.pwmd_pwmd ch iea ieb)
  case ctcs ie =>
    cases h
    exact congrArg s.answer (s.block.ctcs_ctcs ie)
  all_goals exact absurd hi Bool.false_ne_true

/-! ### What the result depends on -/

/-- A failed `pwm_core` never reports success (R106). -/
theorem pwmPlan_ne_error_success (p : Params) (onRaw perRaw : Int) (ch : Selector) :
    pwmPlan p onRaw perRaw ch ≠ .error .success := by
  unfold pwmPlan
  split
  · nofun
  split
  · nofun
  split
  · nofun
  split
  · nofun
  split <;> nofun

/-- A failed CTCS never reports success (R113). -/
theorem ctcPlan_ne_error_success (p : Params) (perRaw : Int) : ctcPlan p perRaw ≠ .error .success := by
  unfold ctcPlan
  split
  · nofun
  split
  · nofun
  split <;> nofun

section
variable {p : Params} {b c : Block p}

/-- Two failures with one code, which is not 0, agree (R115). -/
theorem Block.agreeOnPwm_fail {st : Status} (ch : Selector) (hst : st ≠ .success) :
    Block.AgreeOnPwm ch (b.fail st) (c.fail st) :=
  ⟨rfl, rfl, fun h => absurd ((Status.code_eq_zero st).mp h) hst⟩

/-- Two commits of one plan agree, whatever the blocks held; of the selected channel the mark is set in both (R109). -/
theorem Block.agreeOnPwm_commitPwm (plan : PwmPlan) (ch : Selector) (iea ieb : Bool) :
    Block.AgreeOnPwm ch ((b.commitPwm plan ch iea ieb).done false) ((c.commitPwm plan ch iea ieb).done false) := by
  refine ⟨rfl, rfl, fun _ => ⟨rfl, rfl, rfl, fun k hk => ?bits, ?a, ?b⟩⟩
  case bits =>
    interval_cases k
    · exact (t1Cona_pack ..).trans (t1Cona_pack ..).symm
    · exact (t1Conb_pack ..).trans (t1Conb_pack ..).symm
    · exact (t1Iea_pack ..).trans (t1Iea_pack ..).symm
    · exact (t1Ieb_pack ..).trans (t1Ieb_pack ..).symm
  case a =>
    rintro rfl
    have hmark (d : Block p) : t1Ddra ((d.commitPwm plan .a iea ieb).done false).t1ctl = true := by simp
    exact ⟨rfl, (hmark b).trans (hmark c).symm⟩
  case b =>
    rintro rfl
    have hmark (d : Block p) : t1Ddrb ((d.commitPwm plan .b iea ieb).done false).t1ctl = true := by simp
    exact ⟨rfl, (hmark b).trans (hmark c).symm⟩

/-- What `pwm_core` reports and commits depends on its arguments and the build alone (R116). -/
theorem Block.agreeOnPwm_pwmCore (onRaw perRaw : Int) (ch : Selector) (iea ieb : Bool) :
    Block.AgreeOnPwm ch (b.pwmCore onRaw perRaw ch iea ieb) (c.pwmCore onRaw perRaw ch iea ieb) := by
  unfold Block.pwmCore
  cases hplan : pwmPlan p onRaw perRaw ch with
  | ok plan => exact Block.agreeOnPwm_commitPwm plan ch iea ieb
  | error st => exact Block.agreeOnPwm_fail ch fun hst => pwmPlan_ne_error_success _ _ _ _ (hst ▸ hplan)

theorem Block.agreeOnPwm_pwms (ch : Selector) (iea ieb : Bool) (hont : b.onRaw = c.onRaw) (hper : b.perRaw = c.perRaw) :
    Block.AgreeOnPwm ch (b.pwms ch iea ieb) (c.pwms ch iea ieb) := by
  rw [Block.pwms, Block.pwms, hont, hper]
  exact Block.agreeOnPwm_pwmCore ..

theorem Block.agreeOnPwm_pwmd (ch : Selector) (iea ieb : Bool) (hper : b.perRaw = c.perRaw)
    (hduty : b.dutyPercent = c.dutyPercent) : Block.AgreeOnPwm ch (b.pwmd ch iea ieb) (c.pwmd ch iea ieb) := by
  rw [Block.pwmd, Block.pwmd, hper, hduty]
  split_ifs
  · exact Block.agreeOnPwm_fail ch nofun
  · exact Block.agreeOnPwm_fail ch nofun
  · exact Block.agreeOnPwm_pwmCore ..

theorem Block.agreeOnCtc_ctcs (ie : Bool) (hper : b.perRaw = c.perRaw) : Block.AgreeOnCtc (b.ctcs ie) (c.ctcs ie) := by
  cases hplan : ctcPlan p c.perRaw with
  | ok x =>
    rw [Block.ctcs_of_ok ie (hper ▸ hplan), Block.ctcs_of_ok ie hplan]
    exact ⟨rfl, rfl, fun _ => ⟨rfl, rfl, rfl, rfl⟩⟩
  | error st =>
    rw [Block.ctcs_of_error ie (hper ▸ hplan), Block.ctcs_of_error ie hplan]
    refine ⟨rfl, rfl, fun h => ?_⟩
    obtain rfl := (Status.code_eq_zero st).mp h
    exact absurd hplan (ctcPlan_ne_error_success _ _)

end

/-- Settles O18: the two next states are the command's operation on two blocks that share its operands. -/
theorem configurationDependsOnOperandsAlone : Obligations.ConfigurationDependsOnOperandsAlone := by
  intro s c b' c' q n h ch iea ieb ie both hper
  have hper := congrArg BitVec.toInt hper
  refine ⟨fun hont hboth => ?pwms, fun hduty hboth => ?pwmd, fun hboth => ?ctcs⟩
  all_goals
    obtain ⟨hb, hc⟩ := hboth
    obtain rfl := (next_inj hb).1
    obtain rfl := (next_inj hc).1
  case pwms => exact Block.agreeOnPwm_pwms ch iea ieb (congrArg BitVec.toInt hont) hper
  case pwmd => exact Block.agreeOnPwm_pwmd ch iea ieb hper (congrArg BitVec.toInt hduty)
  case ctcs => exact Block.agreeOnCtc_ctcs ie hper

end Sys2Proof.Machine
end

section
/-! PROOFS. Cells over time: what any step does to a countdown (R38), and runs of ticks on one cell (R135 to R141). -/

namespace Sys2Proof.Machine

/-- Settles O23: the effect of EVCAN. -/
theorem evcanDisarms : Obligations.EvcanDisarms :=
  fun s idx h => ⟨wordOf_eq_add 0x8 idx, exec_of_cell s (i := .evcan idx) rfl h⟩

/-! ### What a step does to a countdown -/

/-- How a cell's countdown may move in one step (R38). -/
def Cell.CountdownMoves {w : Nat} (c c' : Cell w) : Prop :=
  c'.countdown = c.countdown ∨ c'.countdown = c.reload ∨ c'.countdown = 0 ∨
    (c.planned = true ∧ c'.countdown.toNat + 1 = c.countdown.toNat)

section
variable {w : Nat} (c : Cell w)

/-- A tick takes 1 from an armed cell above zero, or nothing (R136). -/
theorem countdownMoves_tickCell : c.CountdownMoves (tickCell c) := by
  by_cases h : c.planned = true ∧ 0 < c.countdown.toNat
  · refine .inr (.inr (.inr ⟨h.1, ?_⟩))
    rw [tickCell_countdown_toNat, if_pos h.1]
    omega
  · rw [tickCell_of_not_counting c h]
    exact .inl rfl

/-- What an event command does to the countdown of its cell (R131 to R138). -/
theorem countdownMoves_cellEffect (count : BitVec w) (i : Instr) : c.CountdownMoves (cellEffect count i c).1 := by
  cases i
  case evstart | evrst => exact .inr (.inl rfl)
  case evnow => exact .inr (.inr (.inl rfl))
  case evtick => exact countdownMoves_tickCell c
  case evrdy => exact .inl (consumeCell_countdown c)
  all_goals exact .inl rfl

end

/-- A command leaves every cell, or is an event command with its effect on the cell it names (R130, R156). -/
theorem exec_cells {i : Instr} {s : State} {b' : Block s.params} (h : exec i s = .next { s with block := b' }) :
    b'.cells = s.block.cells ∨
    ∃ (idx : BitVec 8) (_ : idx.toNat < s.params.nEvents),
      b'.cells = s.block.cells.set idx.toNat (cellEffect s.block.cnt i s.block.cells[idx.toNat]).1 := by
  rcases exec_cases h with ⟨-, ⟨_, _, _, _, _, _, -, rfl⟩ | ⟨_, _, -, rfl⟩ | ⟨_, rfl⟩⟩ | ⟨-, idx, f, hi, -⟩ | ⟨-, rfl⟩ |
    ⟨-, rfl⟩
  case inr.inl =>
    rw [exec_eq_onCell s hi] at h
    obtain rfl := (next_inj h).1
    rcases s.block.onCell_cases idx (cellEffect s.block.cnt i) with ⟨hlt, e⟩ | ⟨-, e⟩ <;> rw [e]
    · exact .inr ⟨idx, hlt, rfl⟩
    · exact .inl rfl
  all_goals exact .inl rfl

/-- Every command moves countdowns as R38 says. -/
theorem exec_countdownMoves {i : Instr} {s : State} {b' : Block s.params} (h : exec i s = .next { s with block := b' })
    {j : Nat} (hj : j < s.params.nEvents) : s.block.cells[j].CountdownMoves b'.cells[j] := by
  rcases exec_cells h with e | ⟨idx, hlt, e⟩ <;> simp only [e]
  · exact .inl rfl
  · by_cases hne : idx.toNat = j
    · subst hne
      rw [Vector.getElem_set_self]
      exact countdownMoves_cellEffect _ _ i
    · rw [Vector.getElem_set_ne _ _ hne]
      exact .inl rfl

/-- Settles O28: only a command, a dispatch and reset write a cell. -/
theorem countdownsNeverWrap : Obligations.CountdownsNeverWrap := by
  intro s b' j hj hstep
  show s.block.cells[j].CountdownMoves b'.cells[j]
  rcases hstep.cases with ⟨-, rfl⟩ | ⟨-, rfl⟩ | ⟨-, rfl⟩ | ⟨r, -, rfl⟩ | ⟨r, v, -, -, rfl⟩ |
    ⟨w, -, ⟨i, -, hexec⟩ | ⟨-, rfl⟩⟩
  · rcases s.block.dispatcherTurn_cases with ⟨-, -, e⟩ | ⟨-, e⟩
    · simp only [e, Block.dispatch_cells, tickAll_getElem]
      exact countdownMoves_tickCell _
    · simp only [e]
      exact .inl rfl
  · exact .inl rfl
  · exact .inr (.inr (.inl (by simp [Block.reset, Cell.reset])))
  · exact .inl rfl
  · obtain ⟨_, _, _, _, e⟩ := s.block.store_frame r v
    simp only [e]
    exact .inl rfl
  · exact exec_countdownMoves hexec hj
  · exact .inl rfl

/-! ### Runs of ticks on one cell -/

section
variable {w : Nat} (k : Nat) (c : Cell w)

theorem iterate_tickCell_planned : (tickCell^[k] c).planned = c.planned := by
  induction k with
  | zero => rfl
  | succ k ih => rw [Function.iterate_succ_apply', tickCell_planned, ih]

/-- An armed cell loses one for each tick, down to 0 (R140). -/
theorem iterate_tickCell_countdown_toNat {c : Cell w} (h : c.planned = true) :
    (tickCell^[k] c).countdown.toNat = c.countdown.toNat - k := by
  induction k with
  | zero => rfl
  | succ k ih =>
    rw [Function.iterate_succ_apply', tickCell_countdown_toNat, iterate_tickCell_planned, if_pos h, ih, Nat.sub_sub]

/-- No run of ticks changes a disarmed cell (R135, R141). -/
theorem iterate_tickCell_of_disarmed {c : Cell w} (h : c.planned = false) : tickCell^[k] c = c :=
  Function.iterate_fixed (tickCell_of_disarmed c h) k

theorem cellIsReady_of_disarmed {c : Cell w} (h : c.planned = false) : cellIsReady c = false := by
  rw [cellIsReady, h, Bool.false_and]

/-- No run of ticks makes a disarmed cell ready (R141). -/
theorem cellIsReady_iterate_tickCell_of_disarmed {c : Cell w} (h : c.planned = false) :
    cellIsReady (tickCell^[k] c) = false := by
  rw [iterate_tickCell_of_disarmed k h, cellIsReady_of_disarmed h]

end

/-- Settles O29: the countdown starts at the reload value and has lost one for each tick. -/
theorem cellFiresAfterExactlyItsReload : Obligations.CellFiresAfterExactlyItsReload := by
  intro w c k
  have hcount : (tickCell^[k] (startCell c)).countdown.toNat = c.reload.toNat - k :=
    iterate_tickCell_countdown_toNat k rfl
  have hready : cellIsReady (tickCell^[k] (startCell c)) = true ↔ c.reload.toNat ≤ k := by
    rw [cellIsReady_iff, iterate_tickCell_planned, startCell_planned, ← BitVec.toNat_inj, hcount]
    exact (and_iff_right rfl).trans Nat.sub_eq_zero_iff_le
  rw [Bool.eq_iff_iff, hready, decide_eq_true_iff]

/-- Settles O30: a cancelled cell and a reset one are disarmed. -/
theorem disarmedCellsStaySilent : Obligations.DisarmedCellsStaySilent := fun _ k _ =>
  ⟨iterate_tickCell_of_disarmed k rfl, cellIsReady_iterate_tickCell_of_disarmed k rfl,
    iterate_tickCell_of_disarmed k rfl, cellIsReady_iterate_tickCell_of_disarmed k rfl⟩

/-- EVRDY on a cell that is not ready only reports so (R137). -/
theorem exec_evrdy_of_not_ready (s : State) {idx : BitVec 8} (h : idx.toNat < s.params.nEvents)
    (hready : cellIsReady s.block.cells[idx.toNat] = false) :
    exec (.evrdy idx) s = .next { s with block := { s.block with status := 0, result := 0 } } := by
  rw [(evrdyConsumesReadiness s idx h).2, if_neg ((cellIsReady_eq_false_iff _).mp hready)]

/-- Settles O31: EVRDY leaves a cell that is not ready, and a cell whose readiness was consumed is disarmed. -/
theorem readinessIsReportedOnce : Obligations.ReadinessIsReportedOnce := by
  refine ⟨fun s b' idx h hexec => ?second, fun w k c hready => ?ticks⟩
  case second =>
    rw [exec_of_cell s (i := .evrdy idx) rfl h] at hexec
    obtain rfl := (next_inj hexec).1
    refine exec_evrdy_of_not_ready _ h ?_
    simp [cellEffect]
  case ticks =>
    refine cellIsReady_iterate_tickCell_of_disarmed k ?_
    rw [consumeCell_of_ready c hready]

end Sys2Proof.Machine
end

section
/-! PROOFS. Runs of turns: every order of them is one (R155), the dispatcher among them (R152, R58), and the count of dispatches
(R151). -/

namespace Sys2Proof.Machine

/-! ### The dispatcher's turn -/

/-- The dispatcher's turn where no dispatch is enabled (R152, assumption log 2). -/
theorem Block.dispatcherTurn_of_not_enabled {p : Params} {b : Block p} (h : b.dispatchEnabled = false) : b.dispatcherTurn = b :=
  if_neg (by rw [h]; exact Bool.false_ne_true)

/-- After the dispatcher's turn no dispatch is enabled: it has happened, or was not enabled (R152). -/
theorem Block.dispatchEnabled_dispatcherTurn {p : Params} (b : Block p) : b.dispatcherTurn.dispatchEnabled = false := by
  rcases b.dispatcherTurn_cases with ⟨-, -, e⟩ | ⟨h, e⟩ <;> rw [e]
  · rfl
  · exact h

/-- Settles O36: the dispatcher's turn, scheduled or not, leaves `dispatcherTurn` of the block. -/
theorem dispatcherIdlesUnlessEnabled : Obligations.DispatcherIdlesUnlessEnabled := by
  refine fun s rest => ⟨fun h => ?_, _, step_dispatcher s rest, step_nil s⟩
  rw [← Block.dispatchEnabled_iff, Bool.not_eq_true] at h
  rw [step_dispatcher, Block.dispatcherTurn_of_not_enabled h]

/-! ### Runs -/

/-- A run is its first step and then the rest. -/
theorem runSteps_succ_of_step {s t : State} (k : Nat) (h : step s = .next t) : runSteps (k + 1) s = runSteps k t := by
  rw [runSteps, h]

/-- A run is all but its last step and then that. -/
theorem runSteps_succ_of_runSteps {k : Nat} {s t : State} (h : runSteps k s = .next t) : runSteps (k + 1) s = step t := by
  induction k generalizing s with
  | zero =>
    obtain rfl := Host.Outcome.next.inj h
    obtain ⟨b', q, n, d, hs⟩ := step_eq_next s
    rw [runSteps_succ_of_step 0 hs, hs]
    rfl
  | succ k ih =>
    obtain ⟨b', q, n, d, hs⟩ := step_eq_next s
    rw [runSteps_succ_of_step k hs] at h
    rw [runSteps_succ_of_step (k + 1) hs]
    exact ih h

/-- What every step keeps, every run keeps. -/
theorem runSteps_keeps {P : State → Prop} (hstep : ∀ s t, P s → step s = .next t → P t) {k : Nat} {s t : State} (hs : P s)
    (h : runSteps k s = .next t) : P t := by
  induction k generalizing s with
  | zero =>
    cases h
    exact hs
  | succ k ih =>
    obtain ⟨b', q, n, d, e⟩ := step_eq_next s
    rw [runSteps_succ_of_step k e] at h
    exact ih (hstep _ _ hs e) h

/-- A step takes the first scheduled turn off the schedule, whichever it is, and adds none (R12). -/
theorem step_cons (s : State) (x : Turn s.params) (rest : List (Turn s.params)) :
    ∃ b' d, step { s with schedule := x :: rest } = .next { s with schedule := rest, block := b', hostData := d } := by
  cases x with
  | tickSource => exact ⟨_, s.hostData, step_tickSource s rest⟩
  | dispatcher => exact ⟨_, s.hostData, step_dispatcher s rest⟩
  | reset => exact ⟨_, s.hostData, step_reset s rest⟩
  | host t =>
    cases t with
    | read r => exact ⟨s.block, _, step_read s rest r⟩
    | write r v =>
      by_cases hr : r = .cmd
      · subst hr
        obtain ⟨b', h⟩ := command_eq_next v { s with schedule := rest }
        exact ⟨b', s.hostData, h⟩
      · exact ⟨_, s.hostData, step_write_of_ne_cmd s rest v hr⟩

/-- Settles O60: one turn after the other, each by `step_cons`. -/
theorem everyOrderOfTurnsIsARun : Obligations.EveryOrderOfTurnsIsARun := by
  intro s turns k hk
  induction k generalizing s with
  | zero => exact ⟨s.block, s.hostData, rfl⟩
  | succ k ih =>
    cases turns with
    | nil => exact absurd hk (Nat.not_succ_le_zero k)
    | cons x rest =>
      obtain ⟨b₁, d₁, h₁⟩ := step_cons s x rest
      obtain ⟨b', d, h⟩ := ih { s with block := b₁, hostData := d₁ } rest (Nat.le_of_succ_le_succ hk)
      exact ⟨b', d, (runSteps_succ_of_step k h₁).trans h⟩

/-- Settles O38: when the scheduled turns have been taken, the dispatcher has its turn. -/
theorem enabledDispatchHappens : Obligations.EnabledDispatchHappens := by
  intro s
  obtain ⟨b', d, h⟩ := everyOrderOfTurnsIsARun s s.schedule s.schedule.length le_rfl
  rw [List.drop_length] at h
  refine ⟨_, (runSteps_succ_of_runSteps h).trans (step_nil { s with block := b', hostData := d }), rfl, ?_⟩
  exact b'.dispatchEnabled_dispatcherTurn

/-- A run of arrivals and dispatcher's turns while the enable is 0, turn by turn: an arrival leaves the cells, and so does the
dispatcher, also where the schedule ends (R58). -/
theorem runSteps_of_disabled {p : Params} (turns : List (Turn p)) (b : Block p) (n k : Nat) (d : Option (Reading p))
    (hen : b.tickEn = false) (hturns : ∀ x ∈ turns, x = .tickSource ∨ x = .dispatcher) (hk : k ≤ turns.length + 1) :
    ∃ b' q m, runSteps k ⟨p, b, turns, n, d⟩ = .next ⟨p, b', q, m, d⟩ ∧ b'.cells = b.cells ∧ b'.tickEn = false := by
  have hidle {b : Block p} (hen : b.tickEn = false) : b.dispatcherTurn = b :=
    Block.dispatcherTurn_of_not_enabled (by rw [Block.dispatchEnabled, hen, Bool.and_false])
  induction turns generalizing b k with
  | nil =>
    obtain rfl | rfl := Nat.le_one_iff_eq_zero_or_eq_one.mp hk
    · exact ⟨b, [], n, rfl, rfl, hen⟩
    · exact ⟨b.dispatcherTurn, _, _, rfl, by rw [hidle hen], by rw [hidle hen, hen]⟩
  | cons x rest ih =>
    cases k with
    | zero => exact ⟨b, _, n, rfl, rfl, hen⟩
    | succ k =>
      have hrest : ∀ y ∈ rest, y = .tickSource ∨ y = .dispatcher := fun y hy => hturns y (List.mem_cons_of_mem x hy)
      have hk' : k ≤ rest.length + 1 := Nat.le_of_succ_le_succ hk
      obtain rfl | rfl := hturns x List.mem_cons_self
      · exact ih b.tickArrival k hen hrest hk'
      · rw [runSteps_succ_of_step k (step_dispatcher ⟨p, b, rest, n, d⟩ rest), hidle hen]
        exact ih b k hen hrest hk'

/-- Settles O39: the scheduled turns are such a run. -/
theorem criticalSectionKeepsTheCells : Obligations.CriticalSectionKeepsTheCells := fun k s hen hturns hk =>
  runSteps_of_disabled s.schedule s.block s.refills k s.hostData hen hturns hk

/-! ### The count of dispatches -/

/-- A dispatch uses up a pending tick, and only an arrival makes one pending (R151). -/
theorem State.StepsTo.dispatches_add_le {s : State} {b' : Block s.params} (h : s.StepsTo b') :
    (if s.dispatches then 1 else 0) + (if b'.tickPend then 1 else 0) ≤
      (if s.tickArrives then 1 else 0) + (if s.block.tickPend then 1 else 0) := by
  rcases h.tickPend_cases with ⟨ht, hdisp, hset⟩ | ⟨hdisp, hpend, hclear⟩ | ⟨-, hdisp, hclear⟩ | ⟨hdisp, hkeep⟩
  · have harr : s.tickArrives = true := decide_eq_true ht
    simp [hdisp, hset, harr]
  · simp [hdisp, hpend, hclear]
  · simp [hdisp, hclear]
  · simp [hdisp, hkeep]

/-- Settles O37: step by step, the dispatches so far and the pending tick are paid for by the arrivals. -/
theorem dispatchesNeverExceedArrivals : Obligations.DispatchesNeverExceedArrivals := by
  intro k
  induction k with
  | zero => exact fun s => Nat.zero_le _
  | succ k ih =>
    intro s
    obtain ⟨b', q, n, d, e⟩ := step_eq_next s
    have hstep : (if s.dispatches then 1 else 0) + (if b'.tickPend then 1 else 0) ≤ _ :=
      State.StepsTo.dispatches_add_le ⟨q, n, d, e⟩
    have hrest := ih { s with block := b', schedule := q, refills := n, hostData := d }
    simp only [countSteps, e] at hrest ⊢
    omega

end Sys2Proof.Machine
end

section
/-! PROOFS. The invariants of the output registers (R45) and of the status (R27, R161), and reset (R44). -/

namespace Sys2Proof.Machine

/-! ### The output registers -/

section
variable {p : Params} {b c : Block p}

/-- The invariant speaks of the timer half alone. -/
theorem Block.OutputsConsistent.of_sameTimer (hb : b.OutputsConsistent) (h : b.SameTimer c) : c.OutputsConsistent := by
  obtain ⟨ht1ps, ht1top, ht1cmpa, ht1cmpb, ht1ctl, ht2ps, ht2cmp, -, hpwm, hctc⟩ := h
  simpa only [Block.OutputsConsistent, Block.TopInRange, Block.CompareWithinTop, Block.IndexMatchesInit,
    Block.OneChannelConnected, Block.ConnectedIsMarked, ht1ps, ht1top, ht1cmpa, ht1cmpb, ht1ctl, ht2ps, ht2cmp, hpwm, hctc]
    using hb

/-- A prescaler index fits its register, as each table has at most six ratios (R6, R29, R34). -/
theorem toNat_ofNat_index {idx len : Nat} (hidx_le : idx ≤ len + 1) (hlen : len ≤ 6) : (BitVec.ofNat 3 idx).toNat = idx := by
  rw [BitVec.toNat_ofNat, Nat.mod_eq_of_lt (by omega)]

/-- The index of a commit is not the 0 of a profile never configured (R44, R45). -/
theorem ofNat_index_ne_zero {idx len : Nat} (hidx : 1 ≤ idx) (hidx_le : idx ≤ len + 1) (hlen : len ≤ 6) :
    BitVec.ofNat 3 idx ≠ 0 := by
  intro h
  have h0 := congrArg BitVec.toNat h
  rw [toNat_ofNat_index hidx_le hlen] at h0
  exact absurd h0 (Nat.one_le_iff_ne_zero.mp hidx)

/-- A PWM16 commit meets the parts of the invariant that speak of PWM16, and leaves the others (R45, R107 to R109). -/
theorem Block.OutputsConsistent.commitPwm (hb : b.OutputsConsistent) {onRaw perRaw : Int} {ch : Selector} {plan : PwmPlan}
    (iea ieb : Bool) (h : pwmPlan p onRaw perRaw ch = .ok plan) :
    ((b.commitPwm plan ch iea ieb).done false).OutputsConsistent := by
  obtain ⟨x, -, -, -, -, hidx, hidx_le, -, -, hcmp, htop⟩ := pwmValuesFitTheirRegisters p onRaw perRaw ch plan h
  obtain ⟨-, -, ht2cmp, ⟨-, ht2ps, -, ht2ps_le⟩, -, -⟩ := hb
  have hlen := p.ratiosPwm_length_le
  have htop_toNat : (BitVec.ofNat 16 plan.top).toNat = plan.top := Nat.mod_eq_of_lt (by omega)
  have hcmp_toNat : (BitVec.ofNat 16 plan.cmp).toNat = plan.cmp := Nat.mod_eq_of_lt (by omega)
  have hcona : t1Cona ((b.commitPwm plan ch iea ieb).done false).t1ctl = true → ch = .a := by simp
  have hconb : t1Conb ((b.commitPwm plan ch iea ieb).done false).t1ctl = true → ch = .b := by simp
  refine ⟨htop_toNat.trans_le htop, ⟨?cmpa, ?cmpb⟩, ht2cmp, ⟨?index, ht2ps, ?indexLe, ht2ps_le⟩, ?one, ?ddra, ?ddrb⟩
  case cmpa =>
    intro hcon
    obtain rfl := hcona hcon
    exact (hcmp_toNat.trans_le hcmp).trans_eq htop_toNat.symm
  case cmpb =>
    intro hcon
    obtain rfl := hconb hcon
    exact (hcmp_toNat.trans_le hcmp).trans_eq htop_toNat.symm
  case index => exact iff_of_false (ofNat_index_ne_zero hidx hidx_le hlen) nofun
  case indexLe => exact (toNat_ofNat_index hidx_le hlen).trans_le hidx_le
  case one => exact fun ⟨ha, hb⟩ => absurd ((hcona ha).symm.trans (hconb hb)) nofun
  case ddra =>
    intro hcon
    simp [hcona hcon]
  case ddrb =>
    intro hcon
    simp [hconb hcon]

/-- A CTC8 commit meets the parts of the invariant that speak of CTC8, and leaves the others (R45, R113). -/
theorem Block.OutputsConsistent.commitCtc (hb : b.OutputsConsistent) {perRaw : Int} {x : Scaled} (ie : Bool)
    (h : ctcPlan p perRaw = .ok x) : ((b.commitCtc x ie).done false).OutputsConsistent := by
  obtain ⟨hidx, hidx_le, -⟩ := ctcPlan_bounds h
  obtain ⟨htop, hcompare, -, ⟨ht1ps, -, ht1ps_le, -⟩, hone, hmarked⟩ := hb
  have hlen := p.ratiosCtc_length_le
  exact ⟨htop, hcompare, Nat.le_of_lt_succ (BitVec.isLt _),
    ⟨ht1ps, iff_of_false (ofNat_index_ne_zero hidx hidx_le hlen) nofun, ht1ps_le,
      (toNat_ofNat_index hidx_le hlen).trans_le hidx_le⟩, hone, hmarked⟩

end

/-- Every command keeps the invariant: its commits meet it, and everything else leaves the timer half. -/
theorem exec_keeps_outputsConsistent {i : Instr} {s : State} {b' : Block s.params} (hb : s.block.OutputsConsistent)
    (h : exec i s = .next { s with block := b' }) : b'.OutputsConsistent := by
  cases hi : isTimerCommand i with
  | true =>
    rcases exec_cases_of_timer h hi with ⟨_, _, _, iea, ieb, _, hplan, rfl⟩ | ⟨_, ie, hplan, rfl⟩ | ⟨_, rfl⟩
    · exact hb.commitPwm iea ieb hplan
    · exact hb.commitCtc ie hplan
    · exact hb.of_sameTimer (s.block.sameTimer_update ..)
  | false => exact hb.of_sameTimer (exec_sameTimer h hi)

/-- The reset block is unconfigured, and every register 0 (R44, R45). -/
theorem Block.outputsConsistent_reset (p : Params) : (Block.reset p).OutputsConsistent := by
  simp [Block.OutputsConsistent, Block.TopInRange, Block.CompareWithinTop, Block.IndexMatchesInit,
    Block.OneChannelConnected, Block.ConnectedIsMarked, Block.reset, t1Cona, t1Conb]

/-- Settles O54: only reset and the commands write the timer half, and reset meets the invariant as they keep it. -/
theorem stepKeepsOutputsConsistent : Obligations.StepKeepsOutputsConsistent := by
  intro s t hb h
  obtain ⟨b', q, n, d, hstep, rfl⟩ := stepsTo_of_step h
  rcases hstep.timer_cases with ⟨-, rfl⟩ | ⟨i, hexec⟩ | hsame
  · exact Block.outputsConsistent_reset s.params
  · exact exec_keeps_outputsConsistent (s := s) hb hexec
  · exact hb.of_sameTimer hsame

/-- Settles O55: each command is the execution of it on any state that holds the block, and the rest leaves the timer half. -/
theorem everyBuildKeepsOutputsConsistent : Obligations.EveryBuildKeepsOutputsConsistent := by
  intro p b hb
  have command (i : Instr) {b' : Block p}
      (h : exec i { State.resetOf p with block := b } = .next { State.resetOf p with block := b' }) : b'.OutputsConsistent :=
    exec_keeps_outputsConsistent (s := { State.resetOf p with block := b }) hb h
  refine ⟨fun ch iea ieb => ⟨command (.pwms ch iea ieb) rfl, command (.pwmd ch iea ieb) rfl⟩, fun ie => command (.ctcs ie) rfl,
    fun idx => ⟨command (.evinit idx) rfl, command (.evstart idx) rfl, command (.evnow idx) rfl, command (.evrst idx) rfl,
      command (.evcan idx) rfl, command (.evtick idx) rfl, command (.evrdy idx) rfl, command (.evzero idx) rfl⟩,
    command .tken rfl, command .tkdis rfl, ?illegal, fun r v => hb.of_sameTimer (b.sameTimer_store r v), ?arrival,
    hb.of_sameTimer b.sameTimer_dispatcherTurn⟩
  case illegal | arrival => exact hb.of_sameTimer (b.sameTimer_update ..)

/-- Settles O53: reset meets the invariant and every step keeps it. -/
theorem outputsConsistentAfterAnyRunFromReset : Obligations.OutputsConsistentAfterAnyRunFromReset := fun p _ _ _ h =>
  runSteps_keeps (P := fun s => s.block.OutputsConsistent) stepKeepsOutputsConsistent (Block.outputsConsistent_reset p) h

/-! ### The status -/

section
variable {p : Params} (b : Block p)

theorem Block.statusInUse_done (r : Bool) : (b.done r).StatusInUse := ⟨.inl (Nat.zero_le _), fun _ => rfl⟩

theorem Block.statusInUse_fail (st : Status) : (b.fail st).StatusInUse :=
  ⟨st.code_inUse, fun h => absurd h (by decide : (0 : BitVec 1) ≠ 1)⟩

theorem Block.statusInUse_onCell (idx : BitVec 8) (f : Cell p.cdw → Cell p.cdw × Bool) : (b.onCell idx f).StatusInUse := by
  rcases b.onCell_cases idx f with ⟨_, e⟩ | ⟨-, e⟩ <;> rw [e]
  · exact ⟨.inl (Nat.zero_le _), fun _ => rfl⟩
  · exact b.statusInUse_fail _

end

/-- Every command ends in success with any result, or in failure with the result 0 (R11, R27). -/
theorem exec_statusInUse {i : Instr} {s : State} {b' : Block s.params} (h : exec i s = .next { s with block := b' }) :
    b'.StatusInUse := by
  rcases exec_cases h with ⟨-, ⟨_, _, _, _, _, _, -, rfl⟩ | ⟨_, _, -, rfl⟩ | ⟨st, rfl⟩⟩ | ⟨-, idx, f, -, rfl⟩ | ⟨-, rfl⟩ |
    ⟨-, rfl⟩
  · exact Block.statusInUse_done _ _
  · exact Block.statusInUse_done _ _
  · exact s.block.statusInUse_fail st
  · exact s.block.statusInUse_onCell idx f
  · exact Block.statusInUse_done _ _
  · exact Block.statusInUse_done _ _

/-- Settles O56: of all turns only a command and reset write `STATUS` and `RESULT`. -/
theorem stepKeepsStatusInUse : Obligations.StepKeepsStatusInUse := by
  intro s t hb h
  obtain ⟨b', q, n, d, hstep, rfl⟩ := stepsTo_of_step h
  rcases hstep.cases with ⟨-, rfl⟩ | ⟨-, rfl⟩ | ⟨-, rfl⟩ | ⟨r, -, rfl⟩ | ⟨r, v, -, -, rfl⟩ |
    ⟨w, -, ⟨i, -, hexec⟩ | ⟨-, rfl⟩⟩
  · obtain ⟨_, _, e⟩ := s.block.dispatcherTurn_frame
    rw [e]
    exact hb
  · exact hb
  · exact ⟨.inl (Nat.zero_le _), fun _ => rfl⟩
  · exact hb
  · obtain ⟨_, _, _, _, e⟩ := s.block.store_frame r v
    rw [e]
    exact hb
  · exact exec_statusInUse (s := s) hexec
  · exact s.block.statusInUse_fail _

/-- Settles O52: the reset block has every register 0. -/
theorem resetMeetsTheInvariants : Obligations.ResetMeetsTheInvariants := fun p =>
  ⟨Block.outputsConsistent_reset p, .inl (Nat.zero_le _), fun _ => rfl⟩

/-! ### Reset -/

section
variable {p : Params} {b : Block p}

/-- A `pwm_core` that reports 0 has committed, and its index is not 0 (R45, R107). -/
theorem Block.pwmCore_t1ps_ne_zero {onRaw perRaw : Int} {ch : Selector} {iea ieb : Bool}
    (h : (b.pwmCore onRaw perRaw ch iea ieb).status = 0) : (b.pwmCore onRaw perRaw ch iea ieb).t1ps ≠ 0 := by
  rcases b.pwmCore_cases onRaw perRaw ch iea ieb with ⟨plan, hplan, e⟩ | ⟨st, hplan, e⟩ <;> rw [e] at h ⊢
  · obtain ⟨x, -, -, -, -, hidx, hidx_le, -⟩ := pwmValuesFitTheirRegisters p onRaw perRaw ch plan hplan
    exact ofNat_index_ne_zero hidx hidx_le p.ratiosPwm_length_le
  · obtain rfl := (Status.code_eq_zero st).mp h
    exact absurd hplan (pwmPlan_ne_error_success _ _ _ _)

theorem Block.pwmd_t1ps_ne_zero {ch : Selector} {iea ieb : Bool} (h : (b.pwmd ch iea ieb).status = 0) :
    (b.pwmd ch iea ieb).t1ps ≠ 0 := by
  rcases b.pwmd_cases ch iea ieb with ⟨-, e⟩ | ⟨-, -, e⟩ | ⟨-, -, -, e⟩ <;> rw [e] at h ⊢
  · exact absurd ((Status.code_eq_zero .invalidTime).mp h) nofun
  · exact absurd ((Status.code_eq_zero .invalidDutyCycle).mp h) nofun
  · exact Block.pwmCore_t1ps_ne_zero h

theorem Block.ctcs_t2ps_ne_zero {ie : Bool} (h : (b.ctcs ie).status = 0) : (b.ctcs ie).t2ps ≠ 0 := by
  rcases b.ctcs_cases ie with ⟨x, hplan, e⟩ | ⟨st, hplan, e⟩ <;> rw [e] at h ⊢
  · obtain ⟨hidx, hidx_le, -⟩ := ctcPlan_bounds hplan
    exact ofNat_index_ne_zero hidx hidx_le p.ratiosCtc_length_le
  · obtain rfl := (Status.code_eq_zero st).mp h
    exact absurd hplan (ctcPlan_ne_error_success _ _)

end

/-- Every cell of the reset block is a cell as reset leaves it (R44). -/
theorem Block.reset_cells_getElem (p : Params) {j : Nat} (hj : j < p.nEvents) : (Block.reset p).cells[j] = Cell.reset p.cdw :=
  Vector.getElem_replicate hj

/-- Settles O51: the fields of the reset block, the two queries on a reset cell, and the index of a commit. -/
theorem resetLeavesEveryBitZero : Obligations.ResetLeavesEveryBitZero := by
  refine ⟨fun _ => rfl, step_reset, fun p idx h => ⟨?evzero, ?evrdy⟩, fun s t ch iea ieb ie hst => ⟨?pwms, ?pwmd, ?ctcs⟩⟩
  case evzero =>
    have hzero : (Block.reset p).cells[idx.toNat].countdown = 0 := by rw [Block.reset_cells_getElem p h]; rfl
    rw [(evzeroTestsTheCountdown (State.resetOf p) idx h).2, if_pos hzero]
    rfl
  case evrdy =>
    refine exec_evrdy_of_not_ready (State.resetOf p) h (cellIsReady_of_disarmed ?_)
    rw [State.resetOf_block, Block.reset_cells_getElem p h]
    rfl
  all_goals
    intro h
    cases h
  case pwms => exact Block.pwmCore_t1ps_ne_zero hst
  case pwmd => exact Block.pwmd_t1ps_ne_zero hst
  case ctcs => exact Block.ctcs_t2ps_ne_zero hst

end Sys2Proof.Machine
end
